-- ==== Sys2Proof/Word.lean ====
section
/-! DEFINITION. The plain word types of the device: the 8-bit data bus, the 16-bit address, the 26-bit
operation word of rule R300 and the signed 16-bit ring-buffer sample of rule R501. -/

namespace Sys2Proof

/-- One byte on the 8-bit data bus (rule R202). -/
abbrev Byte := BitVec 8

/-- A 16-bit register or sample-space address (rule R200). -/
abbrev Addr := BitVec 16

/-- One host operation word (rule R300: 26 bits, one format, one length). -/
abbrev OpWord := BitVec 26

/-- A ring-buffer sample, two's complement (rule R501: "signed 16-bit"). -/
abbrev Sample := BitVec 16

end Sys2Proof
end

