-- ==== Sys2Proof/Syntax.lean ====
section
/-! DEFINITION. What the device is asked to do: one constructor per row of spec/opcode_table.json, that is
the host operations of rules R300 to R314 (a WRITE row per register, RD, REC, TICK) and the eight FDS
modulator commands of rule R320; and the synchronous conditions of rule R901. -/

namespace Sys2Proof

/-- The synchronous conditions of rule R901, in the order of their codes. -/
inductive Condition where
  /-- Code 1, a fault: the modulator executes a table entry outside `0..7` (rules R321 and R456). -/
  | badModCommand
  /-- Code 2, a refusal: a must-be-zero field of the operation word is nonzero (rule R301). -/
  | illFormedWord
  /-- Code 3, a refusal: RECORD with channel id 6 to 255 (rule R302). -/
  | unmodelledChannel
  /-- Code 4, a refusal: WRITE to an expansion-chip register address (rule R312). -/
  | unmodelledExpansion
  /-- Code 5, a refusal: READ of any address but `$4015` (rule R314). -/
  | unmodelledRead
  deriving DecidableEq, Repr

/-- The code of a condition (rule R901). -/
def Condition.code : Condition → Nat
  | .badModCommand => 1
  | .illFormedWord => 2
  | .unmodelledChannel => 3
  | .unmodelledExpansion => 4
  | .unmodelledRead => 5

/-- One instruction of the device: a host operation, or a modulator command. `d` is the data byte of a
WRITE; `i` the place inside a range of addresses that shares one row. -/
inductive Instr where
  /-- TICK (R770). -/
  | tick
  /-- WR $4000 (R551). -/
  | wrPulse1Control (d : Byte)
  /-- WR $4001 (R552). -/
  | wrPulse1Sweep (d : Byte)
  /-- WR $4002 (R553). -/
  | wrPulse1PeriodLow (d : Byte)
  /-- WR $4003 (R554). -/
  | wrPulse1LengthHigh (d : Byte)
  /-- WR $4004 (R551). -/
  | wrPulse2Control (d : Byte)
  /-- WR $4005 (R552). -/
  | wrPulse2Sweep (d : Byte)
  /-- WR $4006 (R553). -/
  | wrPulse2PeriodLow (d : Byte)
  /-- WR $4007 (R554). -/
  | wrPulse2LengthHigh (d : Byte)
  /-- WR $4008 (R601). -/
  | wrTriLinear (d : Byte)
  /-- WR $4009, unused (R311). -/
  | wrUnused4009 (d : Byte)
  /-- WR $400A (R602). -/
  | wrTriPeriodLow (d : Byte)
  /-- WR $400B (R603). -/
  | wrTriLengthHigh (d : Byte)
  /-- WR $400C (R651). -/
  | wrNoiseControl (d : Byte)
  /-- WR $400D, unused (R311). -/
  | wrUnused400D (d : Byte)
  /-- WR $400E (R652). -/
  | wrNoiseMode (d : Byte)
  /-- WR $400F (R653). -/
  | wrNoiseLength (d : Byte)
  /-- WR $4010 (R701). -/
  | wrDmcControl (d : Byte)
  /-- WR $4011 (R702). -/
  | wrDmcLoad (d : Byte)
  /-- WR $4012 (R703). -/
  | wrDmcAddress (d : Byte)
  /-- WR $4013 (R704). -/
  | wrDmcLength (d : Byte)
  /-- WR $4014, not an APU register (R311). -/
  | wrNotApu4014 (d : Byte)
  /-- WR $4015 (R751). -/
  | wrStatus (d : Byte)
  /-- WR $4016, not an APU register (R311). -/
  | wrNotApu4016 (d : Byte)
  /-- WR $4017 (R753). -/
  | wrFrameCounter (d : Byte)
  /-- WR $4040+i (R401). -/
  | wrFdsWaveRam (i : BitVec 6) (d : Byte)
  /-- WR $4080 (R402). -/
  | wrFdsVolumeEnv (d : Byte)
  /-- WR $4081, unused (R311). -/
  | wrFdsUnused4081 (d : Byte)
  /-- WR $4082 (R403). -/
  | wrFdsWaveFreqLow (d : Byte)
  /-- WR $4083 (R404). -/
  | wrFdsWaveFreqHigh (d : Byte)
  /-- WR $4084 (R405). -/
  | wrFdsModEnv (d : Byte)
  /-- WR $4085 (R406). -/
  | wrFdsModPosition (d : Byte)
  /-- WR $4086 (R407). -/
  | wrFdsModFreqLow (d : Byte)
  /-- WR $4087 (R408). -/
  | wrFdsModFreqHigh (d : Byte)
  /-- WR $4088 (R409). -/
  | wrFdsModTable (d : Byte)
  /-- WR $4089 (R410). -/
  | wrFdsWaveConfig (d : Byte)
  /-- WR $408A (R411). -/
  | wrFdsMasterSpeed (d : Byte)
  /-- WR $4800 (R312). -/
  | wrN163Data (d : Byte)
  /-- WR $5000+i, i below 16 (R312). -/
  | wrMmc5Low (i : BitVec 4) (d : Byte)
  /-- WR $5010+i, i below 4 (R312). -/
  | wrMmc5Mid (i : BitVec 2) (d : Byte)
  /-- WR $5014+i, i below 2 (R312). -/
  | wrMmc5High (i : BitVec 1) (d : Byte)
  /-- WR $9000+i, i below 4 (R312). -/
  | wrVrc6Pulse1 (i : BitVec 2) (d : Byte)
  /-- WR $9010 (R312). -/
  | wrVrc7Address (d : Byte)
  /-- WR $9030 (R312). -/
  | wrVrc7Data (d : Byte)
  /-- WR $A000+i, i below 2 (R312). -/
  | wrVrc6Pulse2 (i : BitVec 1) (d : Byte)
  /-- WR $A002 (R312). -/
  | wrVrc6Pulse2Top (d : Byte)
  /-- WR $B000+i, i below 2 (R312). -/
  | wrVrc6Saw (i : BitVec 1) (d : Byte)
  /-- WR $B002 (R312). -/
  | wrVrc6SawTop (d : Byte)
  /-- WR $C000 (R312). -/
  | wrS5bAddress (d : Byte)
  /-- WR $E000 (R312). -/
  | wrS5bData (d : Byte)
  /-- WR $F800 (R312). -/
  | wrN163Address (d : Byte)
  /-- WR of an address no other row names (R311). -/
  | wrOther (a : Addr) (d : Byte)
  /-- RD $4015 (R752). -/
  | rdStatus
  /-- RD of any other address (R314). -/
  | rdOther (a : Addr)
  /-- REC P1 (R503). -/
  | recP1
  /-- REC P2 (R503). -/
  | recP2
  /-- REC TRI (R503). -/
  | recTri
  /-- REC NOI (R503). -/
  | recNoi
  /-- REC DMC (R503). -/
  | recDmc
  /-- REC FDS (R503). -/
  | recFds
  /-- REC with channel id 6 to 255 (R302). -/
  | recOther (id : Byte)
  /-- Modulator command 0 (R320, R456). -/
  | mnop
  /-- Modulator command 1 (R320, R456). -/
  | madd1
  /-- Modulator command 2 (R320, R456). -/
  | madd2
  /-- Modulator command 3 (R320, R456). -/
  | madd4
  /-- Modulator command 4 (R320, R456). -/
  | mrst
  /-- Modulator command 5 (R320, R456). -/
  | msub4
  /-- Modulator command 6 (R320, R456). -/
  | msub2
  /-- Modulator command 7 (R320, R456). -/
  | msub1
  deriving DecidableEq, Repr

end Sys2Proof
end

