-- ==== Sys2Proof/WellFormed.lean ====
section
/-! DEFINITION. Which terms of `Instr` are instructions. Every operand is held at its own width, so only the
three fallback rows of the opcode table need a check: they stand for what no other row names. -/

namespace Sys2Proof

/-- The WRITE addresses that a row of the opcode table of their own names (rules R206, R310, R311 and R312). -/
def namedWriteAddress (a : Addr) : Bool :=
  (decide (0x4000 ≤ a.toNat) && decide (a.toNat ≤ 0x4017)) ||
  (decide (0x4040 ≤ a.toNat) && decide (a.toNat ≤ 0x408A)) ||
  decide (a.toNat = 0x4800) ||
  (decide (0x5000 ≤ a.toNat) && decide (a.toNat ≤ 0x5015)) ||
  (decide (0x9000 ≤ a.toNat) && decide (a.toNat ≤ 0x9003)) ||
  decide (a.toNat = 0x9010) || decide (a.toNat = 0x9030) ||
  (decide (0xA000 ≤ a.toNat) && decide (a.toNat ≤ 0xA002)) ||
  (decide (0xB000 ≤ a.toNat) && decide (a.toNat ≤ 0xB002)) ||
  decide (a.toNat = 0xC000) || decide (a.toNat = 0xE000) || decide (a.toNat = 0xF800)

/-- A term is an instruction: the fallback rows do not stand for what another row names (rules R302, R311
and R314). -/
def Instr.wf : Instr → Bool
  | .wrOther a _ => !namedWriteAddress a
  | .rdOther a => decide (a.toNat ≠ 0x4015)
  | .recOther id => decide (6 ≤ id.toNat)
  | _ => true

end Sys2Proof
end

