-- ==== Sys2Proof/Decode.lean ====
section
/-! DEFINITION. Decoding (rules R300 to R302, R310 to R314, R320 and R321), total on every operation word and
on every modulation table entry, and the encoder. The device has two sources of code: the 26-bit words
the host issues, and the entries of the FDS modulation table. -/

namespace Sys2Proof

/-- The kind field of an operation word, bits 25:24 (rule R300). -/
def wordKind (w : OpWord) : BitVec 2 := w.extractLsb' 24 2

/-- The address field of an operation word, bits 23:8 (rules R300 and R301: unsigned). -/
def wordAddr (w : OpWord) : Addr := w.extractLsb' 8 16

/-- The data field of an operation word, bits 7:0 (rules R300 and R301: unsigned). -/
def wordData (w : OpWord) : Byte := w.extractLsb' 0 8

/-- The WRITE rows, by address (rules R310, R311 and R312). -/
def decodeWrite (a : Addr) (d : Byte) : Instr :=
  if a = 0x4000#16 then .wrPulse1Control d
  else if a = 0x4001#16 then .wrPulse1Sweep d
  else if a = 0x4002#16 then .wrPulse1PeriodLow d
  else if a = 0x4003#16 then .wrPulse1LengthHigh d
  else if a = 0x4004#16 then .wrPulse2Control d
  else if a = 0x4005#16 then .wrPulse2Sweep d
  else if a = 0x4006#16 then .wrPulse2PeriodLow d
  else if a = 0x4007#16 then .wrPulse2LengthHigh d
  else if a = 0x4008#16 then .wrTriLinear d
  else if a = 0x4009#16 then .wrUnused4009 d
  else if a = 0x400A#16 then .wrTriPeriodLow d
  else if a = 0x400B#16 then .wrTriLengthHigh d
  else if a = 0x400C#16 then .wrNoiseControl d
  else if a = 0x400D#16 then .wrUnused400D d
  else if a = 0x400E#16 then .wrNoiseMode d
  else if a = 0x400F#16 then .wrNoiseLength d
  else if a = 0x4010#16 then .wrDmcControl d
  else if a = 0x4011#16 then .wrDmcLoad d
  else if a = 0x4012#16 then .wrDmcAddress d
  else if a = 0x4013#16 then .wrDmcLength d
  else if a = 0x4014#16 then .wrNotApu4014 d
  else if a = 0x4015#16 then .wrStatus d
  else if a = 0x4016#16 then .wrNotApu4016 d
  else if a = 0x4017#16 then .wrFrameCounter d
  else if a.extractLsb' 6 10 = 0x101#10 then .wrFdsWaveRam (a.extractLsb' 0 6) d
  else if a = 0x4080#16 then .wrFdsVolumeEnv d
  else if a = 0x4081#16 then .wrFdsUnused4081 d
  else if a = 0x4082#16 then .wrFdsWaveFreqLow d
  else if a = 0x4083#16 then .wrFdsWaveFreqHigh d
  else if a = 0x4084#16 then .wrFdsModEnv d
  else if a = 0x4085#16 then .wrFdsModPosition d
  else if a = 0x4086#16 then .wrFdsModFreqLow d
  else if a = 0x4087#16 then .wrFdsModFreqHigh d
  else if a = 0x4088#16 then .wrFdsModTable d
  else if a = 0x4089#16 then .wrFdsWaveConfig d
  else if a = 0x408A#16 then .wrFdsMasterSpeed d
  else if a = 0x4800#16 then .wrN163Data d
  else if a.extractLsb' 4 12 = 0x500#12 then .wrMmc5Low (a.extractLsb' 0 4) d
  else if a.extractLsb' 2 14 = 0x1404#14 then .wrMmc5Mid (a.extractLsb' 0 2) d
  else if a.extractLsb' 1 15 = 0x280A#15 then .wrMmc5High (a.extractLsb' 0 1) d
  else if a.extractLsb' 2 14 = 0x2400#14 then .wrVrc6Pulse1 (a.extractLsb' 0 2) d
  else if a = 0x9010#16 then .wrVrc7Address d
  else if a = 0x9030#16 then .wrVrc7Data d
  else if a.extractLsb' 1 15 = 0x5000#15 then .wrVrc6Pulse2 (a.extractLsb' 0 1) d
  else if a = 0xA002#16 then .wrVrc6Pulse2Top d
  else if a.extractLsb' 1 15 = 0x5800#15 then .wrVrc6Saw (a.extractLsb' 0 1) d
  else if a = 0xB002#16 then .wrVrc6SawTop d
  else if a = 0xC000#16 then .wrS5bAddress d
  else if a = 0xE000#16 then .wrS5bData d
  else if a = 0xF800#16 then .wrN163Address d
  else .wrOther a d

/-- The READ rows, by address (rules R313 and R314). -/
def decodeRead (a : Addr) : Instr :=
  if a = 0x4015#16 then .rdStatus else .rdOther a

/-- The RECORD rows, by channel id (rule R302). -/
def decodeRecord (id : Byte) : Instr :=
  if id = 0#8 then .recP1
  else if id = 1#8 then .recP2
  else if id = 2#8 then .recTri
  else if id = 3#8 then .recNoi
  else if id = 4#8 then .recDmc
  else if id = 5#8 then .recFds
  else .recOther id

/-- Decoding of an operation word (rules R300 and R301): total; a word whose must-be-zero field is nonzero is
rejected as ill-formed before anything else is looked at (rule R904). -/
def decodeWord (w : OpWord) : Except Condition Instr :=
  if wordKind w = 0#2 then
    if wordAddr w = 0#16 ∧ wordData w = 0#8 then .ok .tick else .error .illFormedWord
  else if wordKind w = 1#2 then
    .ok (decodeWrite (wordAddr w) (wordData w))
  else if wordKind w = 2#2 then
    if wordData w = 0#8 then .ok (decodeRead (wordAddr w)) else .error .illFormedWord
  else
    if wordAddr w = 0#16 then .ok (decodeRecord (wordData w)) else .error .illFormedWord

/-- Decoding of a modulation table entry (rules R320 and R321): an entry outside `0..7` is the device's one
fault. -/
def decodeCommand (c : Byte) : Except Condition Instr :=
  if c = 0#8 then .ok .mnop
  else if c = 1#8 then .ok .madd1
  else if c = 2#8 then .ok .madd2
  else if c = 3#8 then .ok .madd4
  else if c = 4#8 then .ok .mrst
  else if c = 5#8 then .ok .msub4
  else if c = 6#8 then .ok .msub2
  else if c = 7#8 then .ok .msub1
  else .error .badModCommand

/-- An encoded instruction: a host operation word, or a modulation table entry (rules R300 and R320). -/
inductive Code where
  | op (w : OpWord)
  | command (c : Byte)
  deriving DecidableEq, Repr

/-- The decoder over both sources of code. -/
def decode : Code → Except Condition Instr
  | .op w => decodeWord w
  | .command c => decodeCommand c

/-- An operation word from its three fields (rule R300: kind, then address, then data). -/
def opWord (k : BitVec 2) (a : Addr) (d : Byte) : OpWord := k ++ a ++ d

/-- The operation word of `WR a, #d`. -/
def writeWord (a : Addr) (d : Byte) : OpWord := opWord 1#2 a d

/-- The operation word of `RD a`. -/
def readWord (a : Addr) : OpWord := opWord 2#2 a 0#8

/-- The operation word of RECORD with a channel id. -/
def recordWord (id : Byte) : OpWord := opWord 3#2 0#16 id

/-- The operation word of TICK. -/
def tickWord : OpWord := opWord 0#2 0#16 0#8

/-- The encoder, written from rules R300, R302, R310, R312 and R320. -/
def encode : Instr → Code
  | .tick => .op tickWord
  | .wrPulse1Control d => .op (writeWord 0x4000#16 d)
  | .wrPulse1Sweep d => .op (writeWord 0x4001#16 d)
  | .wrPulse1PeriodLow d => .op (writeWord 0x4002#16 d)
  | .wrPulse1LengthHigh d => .op (writeWord 0x4003#16 d)
  | .wrPulse2Control d => .op (writeWord 0x4004#16 d)
  | .wrPulse2Sweep d => .op (writeWord 0x4005#16 d)
  | .wrPulse2PeriodLow d => .op (writeWord 0x4006#16 d)
  | .wrPulse2LengthHigh d => .op (writeWord 0x4007#16 d)
  | .wrTriLinear d => .op (writeWord 0x4008#16 d)
  | .wrUnused4009 d => .op (writeWord 0x4009#16 d)
  | .wrTriPeriodLow d => .op (writeWord 0x400A#16 d)
  | .wrTriLengthHigh d => .op (writeWord 0x400B#16 d)
  | .wrNoiseControl d => .op (writeWord 0x400C#16 d)
  | .wrUnused400D d => .op (writeWord 0x400D#16 d)
  | .wrNoiseMode d => .op (writeWord 0x400E#16 d)
  | .wrNoiseLength d => .op (writeWord 0x400F#16 d)
  | .wrDmcControl d => .op (writeWord 0x4010#16 d)
  | .wrDmcLoad d => .op (writeWord 0x4011#16 d)
  | .wrDmcAddress d => .op (writeWord 0x4012#16 d)
  | .wrDmcLength d => .op (writeWord 0x4013#16 d)
  | .wrNotApu4014 d => .op (writeWord 0x4014#16 d)
  | .wrStatus d => .op (writeWord 0x4015#16 d)
  | .wrNotApu4016 d => .op (writeWord 0x4016#16 d)
  | .wrFrameCounter d => .op (writeWord 0x4017#16 d)
  | .wrFdsWaveRam i d => .op (writeWord (0x101#10 ++ i) d)
  | .wrFdsVolumeEnv d => .op (writeWord 0x4080#16 d)
  | .wrFdsUnused4081 d => .op (writeWord 0x4081#16 d)
  | .wrFdsWaveFreqLow d => .op (writeWord 0x4082#16 d)
  | .wrFdsWaveFreqHigh d => .op (writeWord 0x4083#16 d)
  | .wrFdsModEnv d => .op (writeWord 0x4084#16 d)
  | .wrFdsModPosition d => .op (writeWord 0x4085#16 d)
  | .wrFdsModFreqLow d => .op (writeWord 0x4086#16 d)
  | .wrFdsModFreqHigh d => .op (writeWord 0x4087#16 d)
  | .wrFdsModTable d => .op (writeWord 0x4088#16 d)
  | .wrFdsWaveConfig d => .op (writeWord 0x4089#16 d)
  | .wrFdsMasterSpeed d => .op (writeWord 0x408A#16 d)
  | .wrN163Data d => .op (writeWord 0x4800#16 d)
  | .wrMmc5Low i d => .op (writeWord (0x500#12 ++ i) d)
  | .wrMmc5Mid i d => .op (writeWord (0x1404#14 ++ i) d)
  | .wrMmc5High i d => .op (writeWord (0x280A#15 ++ i) d)
  | .wrVrc6Pulse1 i d => .op (writeWord (0x2400#14 ++ i) d)
  | .wrVrc7Address d => .op (writeWord 0x9010#16 d)
  | .wrVrc7Data d => .op (writeWord 0x9030#16 d)
  | .wrVrc6Pulse2 i d => .op (writeWord (0x5000#15 ++ i) d)
  | .wrVrc6Pulse2Top d => .op (writeWord 0xA002#16 d)
  | .wrVrc6Saw i d => .op (writeWord (0x5800#15 ++ i) d)
  | .wrVrc6SawTop d => .op (writeWord 0xB002#16 d)
  | .wrS5bAddress d => .op (writeWord 0xC000#16 d)
  | .wrS5bData d => .op (writeWord 0xE000#16 d)
  | .wrN163Address d => .op (writeWord 0xF800#16 d)
  | .wrOther a d => .op (writeWord a d)
  | .rdStatus => .op (readWord 0x4015#16)
  | .rdOther a => .op (readWord a)
  | .recP1 => .op (recordWord 0#8)
  | .recP2 => .op (recordWord 1#8)
  | .recTri => .op (recordWord 2#8)
  | .recNoi => .op (recordWord 3#8)
  | .recDmc => .op (recordWord 4#8)
  | .recFds => .op (recordWord 5#8)
  | .recOther id => .op (recordWord id)
  | .mnop => .command 0#8
  | .madd1 => .command 1#8
  | .madd2 => .command 2#8
  | .madd4 => .command 3#8
  | .mrst => .command 4#8
  | .msub4 => .command 5#8
  | .msub2 => .command 6#8
  | .msub1 => .command 7#8

/-- The instruction the decoder reads from the bits of an opcode-table row. A row of at most one byte is a
modulator command (format M, rule R320); a longer one is an operation word (format OP, 26 bits, rule R300), and
bits above bit 25 belong to no word. -/
def decodeTableWord (nbits w : Nat) : Option Instr :=
  if nbits ≤ 8 then
    if w < 2 ^ 8 then (decodeCommand (BitVec.ofNat 8 w)).toOption else none
  else
    if w < 2 ^ 26 then (decodeWord (BitVec.ofNat 26 w)).toOption else none

end Sys2Proof
end

