-- ==== Sys2Proof/Config.lean ====
section
/-! DEFINITION. What an implementation fixes (rule R13) and the free values of the model. A constant with
a body is fixed by the spec or is the spec's own default; an `opaque` constant has no body, so no proof can
lean on a value of it. The parameters that are plain data also stand in `State.params`, so that a statement
about every state is a statement about every value of them. -/

namespace Sys2Proof.Config

/-- `CPU_CLOCK_HZ` (rule R13): one TICK is one cycle of this clock. -/
def cpuClockHz : Nat := 1789773

/-- `WAVE_SAMPLE_MASK` (rule R13, D9): the spec's default, the source's "4-bit amplitude". -/
def waveSampleMask : BitVec 6 := 0x0F#6

/-- `WAVE_HALT_RESETS_PHASE` (rule R13, D11): the spec's default. -/
def waveHaltResetsPhase : Bool := false

/-- `RING_CAPACITY` less one (rule R13, D35): open in the spec, so left free (log entry 9). -/
opaque ringCapacityPred : Nat

/-- `RING_CAPACITY` (rule R501: the cursor ranges over `0 .. RING_CAPACITY-1`, so it is at least 1). -/
def ringCapacity : Nat := ringCapacityPred + 1

/-- `FDS_FILTER.a1` (rule R520, D18): open in the spec, so left free. -/
opaque fdsFilterA1 : Rat

/-- `FDS_FILTER.a2` (rule R521, D18): open in the spec, so left free. -/
opaque fdsFilterA2 : Rat

/-- `DEBUG_HIGHPASS` (rule R523, D27), whether it is applied: open in the spec, so left free. -/
opaque debugHighpass : Bool

/-- `HighPass` (rule R523): the result of the debug high-pass filter, for a channel id, a draw number (the
filter may remember earlier samples) and the level put in. The spec gives no formula: a free value (log entry 11). -/
opaque highPass : Nat → Nat → Rat → Rat

/-- `SAMPLE_QUANTIZE` (rule R503, D27): the conversion of a level to a signed 16-bit sample, open (log entry 11). -/
opaque sampleQuantize : Rat → Sample

/-- `MIX_FDS` (rule R780, D26): how the 2A03 mix and the FDS level are combined, open (log entry 11). -/
opaque mixFds : Rat → Rat → Rat

/-- `OPEN_BUS` (rule R752, D4): the undriven read bits of the n-th draw, any value. -/
opaque openBus : Nat → Byte

/-- The host's answer to the n-th draw of a DMC `MemRead` at an address whose byte the host has not
fixed (rules R210 and R716, I32: any value, and not required to equal any earlier one). -/
opaque hostByte : Nat → Addr → Byte

/-- `FDS_INIT_SEQUENCE` (rules R412 and R1004, D19): the WRITEs (address, data) of track start, open. -/
opaque fdsInitSequence : List (Addr × Byte)

/-- `OUTPUT_SAMPLE_RATE` (rule R13): open; no rule of the device reads it. -/
opaque outputSampleRate : Nat

/-- `MOD_TABLE_WRITE_MODEL` (rule R13, D13) where another than the spec's default is supplied: the table and the write
position after a `$4088` WRITE, for the command in `d[2:0]` and the halt flag, write position and table before it. Left
free, but for what rule R321 says of every write to the table: it stores 3-bit commands (log entry 8). -/
opaque modTableWriteModel : BitVec 3 → Bool → BitVec 6 → Vector Byte 64 → Vector (BitVec 3) 64 × BitVec 6

/-- The conversion of one point of the stream the block exposes (rule R780) to a raw sample of the host's audio
(rule R817: "raw samples"): the spec gives none, so it is free (log entry 11). -/
opaque audioSample : Rat → Sample

/-- What a raw sample becomes in the frame whose fade-out timer is 0: rule R817 gives a divisor for a timer of at
least 1 only, so it is free (log entry 20). -/
opaque fadedOut : Sample → Sample

/-- The bytes of one muxed packet: the codec's (rule R10), so free. The arguments are whether it is an audio packet,
and its place in the stream. -/
opaque packetBytes : Bool → Nat → Nat

end Sys2Proof.Config
end

