-- ==== Sys2Proof/Machine/State.lean ====
section
/-! DEFINITION. The state of the device, as plain data: every field of spec/10_state.md, the channels' ring
buffers of rule R501, the parameters the model takes as an argument (rule R13) and the host's side of the
interface. -/

namespace Sys2Proof.Machine

/-- The device's faults (rule R900 (a)). -/
inductive Fault where
  /-- `raise Fault(BadModCommand)` (rule R456): raised inside a TICK by the modulator on a table entry outside
  `0..7`. TICK takes it as rule R902 says (`takeFault`), so `exec .tick` and `step` answer the faulted state and
  never this outcome. Safe: the state it leaves is the one the rule gives. -/
  | badModCommand
  deriving DecidableEq, Repr

/-- What the model has no meaning for. The spec's own refusals (rule R903) are not here: they are next states with
`dev.refused` set. -/
inductive Refusal where
  /-- An instruction whose meaning has not been written. Raised only by an arm of `exec`; no arm does so now.
  Safe: the machine stops. -/
  | notModelled (mnemonic : String)
  /-- `step` was asked for a further operation after the last one of the host's finite sequence (rule R17). Raised
  only by `step`. Safe: the machine stops. -/
  | noPendingOperation
  deriving DecidableEq, Repr

/-- The modelled channels, a closed set (rules R302 and R531). -/
inductive Channel where
  | p1 | p2 | tri | noi | dmc | fds
  deriving DecidableEq, Repr

/-- Device bookkeeping (rule R102). -/
structure Dev where
  faulted : Bool
  refused : Bool
  cycle : Nat
  deriving DecidableEq, Repr

/-- The 2A03 envelope generator shared by pulse and noise: `env_start`, `env_div`, `env_decay` (rules R110, R112
and R557). -/
structure Envelope where
  start : Bool
  div : BitVec 4
  decay : BitVec 4
  deriving DecidableEq, Repr

/-- A 2A03 pulse channel (rule R110). -/
structure Pulse where
  duty : BitVec 2
  halt : Bool
  constVol : Bool
  vol : BitVec 4
  sweepEnable : Bool
  sweepPeriod : BitVec 3
  sweepNegate : Bool
  sweepShift : BitVec 3
  sweepReload : Bool
  sweepDiv : BitVec 3
  period : BitVec 11
  timer : BitVec 11
  seq : BitVec 3
  length : BitVec 8
  enabled : Bool
  env : Envelope
  deriving DecidableEq, Repr

/-- The 2A03 triangle channel (rule R111). -/
structure Triangle where
  control : Bool
  linearReloadValue : BitVec 7
  linear : BitVec 7
  linearReload : Bool
  period : BitVec 11
  timer : BitVec 11
  seq : BitVec 5
  length : BitVec 8
  enabled : Bool
  deriving DecidableEq, Repr

/-- The 2A03 noise channel (rule R112). -/
structure Noise where
  halt : Bool
  constVol : Bool
  vol : BitVec 4
  mode : Bool
  periodIndex : BitVec 4
  timer : BitVec 12
  lfsr : BitVec 15
  length : BitVec 8
  enabled : Bool
  env : Envelope
  deriving DecidableEq, Repr

/-- The 2A03 delta-modulation channel (rule R113). -/
structure Dmc where
  irqEnable : Bool
  loop : Bool
  rateIndex : BitVec 4
  level : BitVec 7
  sampleAddr : BitVec 8
  sampleLen : BitVec 8
  curAddr : BitVec 16
  bytesRem : BitVec 12
  buffer : BitVec 8
  bufferFull : Bool
  shift : BitVec 8
  bitsRem : BitVec 4
  silence : Bool
  timer : BitVec 9
  irqFlag : Bool
  deriving DecidableEq, Repr

/-- The frame counter (rule R114). -/
structure Frame where
  mode : Bool
  irqInhibit : Bool
  count : BitVec 16
  pending : Nat
  frameIrq : Bool
  deriving DecidableEq, Repr

/-- The 2A03 APU (rules R110 to R114). -/
structure Apu where
  pulse1 : Pulse
  pulse2 : Pulse
  tri : Triangle
  noise : Noise
  dmc : Dmc
  frame : Frame
  deriving DecidableEq, Repr

/-- The FDS wave table unit (rule R103). A sample is held in 6 bits, the wider of the two widths
`WAVE_SAMPLE_MASK` may give it (D9; DEDUCED, log entry 12). -/
structure FdsWave where
  table : Vector (BitVec 6) 64
  frequency : BitVec 16
  phase : BitVec 22
  writeEnable : Bool
  masterVolume : BitVec 2
  halt : Bool
  envHalt : Bool
  envHaltLatch : Bool
  tickFreq : Int
  deriving DecidableEq, Repr

/-- The FDS modulator (rule R104). An entry of the table is held as a whole byte, wider than its 3 bits, so that
the corrupted state of rule R321 is a state of the model; that no step leaves 3 bits is an invariant
(DEDUCED, log entry 12). -/
structure FdsMod where
  table : Vector Byte 64
  frequency : BitVec 12
  phase : BitVec 22
  halt : Bool
  position : BitVec 7
  writePos : BitVec 6
  deriving DecidableEq, Repr

/-- An FDS envelope (rule R105). -/
structure FdsEnv where
  speed : BitVec 6
  disable : Bool
  increase : Bool
  timer : Nat
  output : BitVec 6
  deriving DecidableEq, Repr

/-- The FDS channel (rules R103 to R106). The spec's real numbers are rationals here (DESIGN CHOICE, log entry 10). -/
structure Fds where
  wave : FdsWave
  mod : FdsMod
  volEnv : FdsEnv
  modEnv : FdsEnv
  masterSpeed : Byte
  y1 : Rat
  y2 : Rat
  level : Rat
  filtered : Rat
  edge : Bool
  deriving DecidableEq, Repr

/-- A channel's stored fields (rule R501); `RING_CAPACITY` is the length of the two lists. -/
structure ChannelBuf where
  muted : Bool
  samples : List Sample
  edges : List Bool
  cursor : Nat
  deriving DecidableEq, Repr

/-- The stored fields of the six channels (rules R501 and R531). -/
structure Channels where
  p1 : ChannelBuf
  p2 : ChannelBuf
  tri : ChannelBuf
  noi : ChannelBuf
  dmc : ChannelBuf
  fds : ChannelBuf
  deriving DecidableEq, Repr

/-- Which modulation table entry a boundary executes: `MOD_TABLE_INDEX` (rule R13, D12). -/
inductive ModTableIndex where
  | position
  | boundary
  deriving DecidableEq, Repr

/-- How a `$4088` WRITE writes the modulation table: `MOD_TABLE_WRITE_MODEL` (rule R13, D13). -/
inductive ModTableWriteModel where
  /-- The spec's default (rule R409): two entries, while the modulator is halted. -/
  | twoEntriesWhileHalted
  /-- Another model, supplied from outside the spec: `Config.modTableWriteModel`. -/
  | supplied
  deriving DecidableEq, Repr

/-- The parameters of rule R13 that are plain data and that a rule of the device reads. They are the model's
argument: no operation changes them. DESIGN CHOICE (log entry 7): they stand in State. -/
structure Params where
  waveSampleMask : BitVec 6
  waveHaltResetsPhase : Bool
  modTableIndex : ModTableIndex
  modTableWriteModel : ModTableWriteModel
  filterA1 : Rat
  filterA2 : Rat
  debugHighpass : Bool
  deriving DecidableEq, Repr

/-- The host's memory as far as the host has fixed its answers to `MemRead` (rules R200 and R210): address and byte,
addresses strictly rising. The device never writes it (rule R16). -/
abbrev Memory := List Host.Cell

/-- What the device has told the host. -/
inductive Event where
  /-- The byte a READ returned (rule R752). -/
  | readReply (v : Byte)
  /-- A DMC `MemRead` and the host's answer (rules R210 and R716). -/
  | memRead (a : Addr) (answer : Byte)
  /-- A synchronous condition (rule R901). -/
  | condition (c : Condition)
  deriving DecidableEq, Repr

/-- The host's side of the interface; the model's own fields, not the spec's: the operations not yet applied (rule
R17), the index of the next one (rule R100), what the device has answered so far (newest first), the host's memory,
and how many free values have been drawn. DESIGN CHOICE (log entries 3, 5, 6 and 19). -/
structure HostSide where
  ops : List OpWord
  index : Nat
  events : List Event
  memory : Memory
  draws : Nat
  deriving DecidableEq, Repr

/-- The whole state. -/
structure State where
  dev : Dev
  apu : Apu
  fds : Fds
  channels : Channels
  params : Params
  host : HostSide
  deriving DecidableEq, Repr

/-- What a meaning answers. -/
abbrev Result := Host.Outcome State Fault Refusal

/-- Power-up of a 2A03 envelope generator (rules R110, R112 and R1001). -/
def Envelope.reset : Envelope := { start := false, div := 0, decay := 0 }

/-- Power-up of a pulse channel (rules R110 and R1001). -/
def Pulse.reset : Pulse :=
  { duty := 0, halt := false, constVol := false, vol := 0, sweepEnable := false, sweepPeriod := 0,
    sweepNegate := false, sweepShift := 0, sweepReload := false, sweepDiv := 0, period := 0, timer := 0,
    seq := 0, length := 0, enabled := false, env := Envelope.reset }

/-- Power-up of the triangle (rules R111 and R1001). -/
def Triangle.reset : Triangle :=
  { control := false, linearReloadValue := 0, linear := 0, linearReload := false, period := 0, timer := 0,
    seq := 0, length := 0, enabled := false }

/-- Power-up of the noise channel (rules R112 and R1001: `lfsr` is 1). -/
def Noise.reset : Noise :=
  { halt := false, constVol := false, vol := 0, mode := false, periodIndex := 0, timer := 0, lfsr := 1,
    length := 0, enabled := false, env := Envelope.reset }

/-- Power-up of the DMC (rules R113 and R1001: `bits_rem` is 8 and `silence` is true). -/
def Dmc.reset : Dmc :=
  { irqEnable := false, loop := false, rateIndex := 0, level := 0, sampleAddr := 0, sampleLen := 0,
    curAddr := 0, bytesRem := 0, buffer := 0, bufferFull := false, shift := 0, bitsRem := 8,
    silence := true, timer := 0, irqFlag := false }

/-- Power-up of the frame counter (rules R114 and R1001). -/
def Frame.reset : Frame :=
  { mode := false, irqInhibit := false, count := 0, pending := 0, frameIrq := false }

/-- Power-up of the APU (rule R1001). -/
def Apu.reset : Apu :=
  { pulse1 := Pulse.reset, pulse2 := Pulse.reset, tri := Triangle.reset, noise := Noise.reset,
    dmc := Dmc.reset, frame := Frame.reset }

/-- Power-up of the wave table unit (rules R103 and R1001). -/
def FdsWave.reset : FdsWave :=
  { table := Vector.replicate 64 0, frequency := 0, phase := 0, writeEnable := false, masterVolume := 0,
    halt := false, envHalt := false, envHaltLatch := false, tickFreq := 0 }

/-- Power-up of the modulator (rules R104 and R1001). -/
def FdsMod.reset : FdsMod :=
  { table := Vector.replicate 64 0, frequency := 0, phase := 0, halt := false, position := 0, writePos := 0 }

/-- Power-up of an FDS envelope (rules R105 and R1001). -/
def FdsEnv.reset : FdsEnv := { speed := 0, disable := false, increase := false, timer := 0, output := 0 }

/-- Power-up of the FDS channel (rules R106 and R1001). -/
def Fds.reset : Fds :=
  { wave := FdsWave.reset, mod := FdsMod.reset, volEnv := FdsEnv.reset, modEnv := FdsEnv.reset,
    masterSpeed := 0, y1 := 0, y2 := 0, level := 0, filtered := 0, edge := false }

/-- Power-up of a channel's buffers (rules R501 and R1001). -/
def ChannelBuf.reset : ChannelBuf :=
  { muted := false, samples := List.replicate Config.ringCapacity 0#16,
    edges := List.replicate Config.ringCapacity false, cursor := 0 }

/-- Power-up of the six channels (rule R1001). -/
def Channels.reset : Channels :=
  { p1 := ChannelBuf.reset, p2 := ChannelBuf.reset, tri := ChannelBuf.reset, noi := ChannelBuf.reset,
    dmc := ChannelBuf.reset, fds := ChannelBuf.reset }

/-- The parameters as they stand at reset (rule R13): the spec's default where it gives one, else free. -/
def Params.reset : Params :=
  { waveSampleMask := Config.waveSampleMask, waveHaltResetsPhase := Config.waveHaltResetsPhase,
    modTableIndex := .position, modTableWriteModel := .twoEntriesWhileHalted,
    filterA1 := Config.fdsFilterA1, filterA2 := Config.fdsFilterA2, debugHighpass := Config.debugHighpass }

/-- The host's side before the first operation. DESIGN CHOICE (log entry 4): no operation pending, no byte of
memory fixed, no free value drawn. -/
def HostSide.reset : HostSide := { ops := [], index := 0, events := [], memory := [], draws := 0 }

/-- Power-up (rules R1000 and R1001; the zeros are the spec's choice D28, DEDUCED, log entry 18). -/
def State.reset : State :=
  { dev := { faulted := false, refused := false, cycle := 0 }, apu := Apu.reset, fds := Fds.reset,
    channels := Channels.reset, params := Params.reset, host := HostSide.reset }

end Sys2Proof.Machine
end

