-- ==== Sys2Proof/Machine/Operands.lean ====
section
/-! DEFINITION. The operand forms: the fields of the data byte of a WRITE (rule R310), the registers assembled
from a low and a high byte (rule R202), and the tables an index of the data byte selects (rules R315, R555, R604,
R655 and R705). -/

namespace Sys2Proof.Machine

/-- Bit `i` of a data byte, bit 0 the least significant (rule R14). -/
def bit (d : Byte) (i : Nat) : Bool := d.getLsbD i

/-- An 11-bit period with its low byte replaced (rules R553 and R602). -/
def withLow11 (p : BitVec 11) (d : Byte) : BitVec 11 := p.extractLsb' 8 3 ++ d

/-- An 11-bit period with bits 10:8 taken from `d[2:0]` (rules R554 and R603). -/
def withHigh11 (p : BitVec 11) (d : Byte) : BitVec 11 := d.extractLsb' 0 3 ++ p.extractLsb' 0 8

/-- A 12-bit frequency with its low byte replaced (rule R407). -/
def withLow12 (f : BitVec 12) (d : Byte) : BitVec 12 := f.extractLsb' 8 4 ++ d

/-- A 12-bit frequency with bits 11:8 taken from `d[3:0]` (rule R408). -/
def withHigh12 (f : BitVec 12) (d : Byte) : BitVec 12 := d.extractLsb' 0 4 ++ f.extractLsb' 0 8

/-- A 16-bit frequency with its low byte replaced (rule R403). -/
def withLow16 (f : BitVec 16) (d : Byte) : BitVec 16 := f.extractLsb' 8 8 ++ d

/-- A 16-bit frequency with bits 11:8 taken from `d[3:0]` and bits 15:12 cleared (rule R404). -/
def withHigh16 (f : BitVec 16) (d : Byte) : BitVec 16 := (0#4 ++ d.extractLsb' 0 4) ++ f.extractLsb' 0 8

/-- `LENGTH_TABLE` (rule R315). -/
def lengthTable : List Byte :=
  [10, 254, 20, 2, 40, 4, 80, 6, 160, 8, 60, 10, 14, 12, 26, 14] ++
  [12, 16, 24, 18, 48, 20, 96, 22, 192, 24, 72, 26, 16, 28, 32, 30]

/-- The length a length register's data byte loads: `LENGTH_TABLE[d[7:3]]` (rule R315). -/
def lengthOf (d : Byte) : Byte := lengthTable.getD (d.extractLsb' 3 5).toNat 0

/-- `DUTY` (rule R555), one list per duty, element 0 first. -/
def dutyTable : List (List Bool) :=
  [[false, true, false, false, false, false, false, false],
   [false, true, true, false, false, false, false, false],
   [false, true, true, true, true, false, false, false],
   [true, false, false, true, true, true, true, true]]

/-- `DUTY[duty][seq]` (rule R555). -/
def dutyBit (duty : BitVec 2) (seq : BitVec 3) : Bool := (dutyTable.getD duty.toNat []).getD seq.toNat false

/-- `TRI_SEQ[s]` (rule R604). -/
def triSeq (s : BitVec 5) : Nat := if s.toNat < 16 then 15 - s.toNat else s.toNat - 16

/-- `NOISE_PERIOD` (rule R655). -/
def noisePeriodTable : List Nat :=
  [4, 8, 16, 32, 64, 96, 128, 160, 202, 254, 380, 508, 762, 1016, 2034, 4068]

/-- `NOISE_PERIOD[index]` (rule R655). -/
def noisePeriod (index : BitVec 4) : Nat := noisePeriodTable.getD index.toNat 0

/-- `DMC_RATE` (rule R705). -/
def dmcRateTable : List Nat :=
  [428, 380, 340, 320, 286, 254, 226, 214, 190, 160, 142, 128, 106, 84, 72, 54]

/-- `DMC_RATE[index]` (rule R705). -/
def dmcRate (index : BitVec 4) : Nat := dmcRateTable.getD index.toNat 0

/-- The 6-bit table index of a 22-bit phase: `phase >> 16` (rules R18 and R466, D34). -/
def tableIndex (phase : BitVec 22) : BitVec 6 := phase.extractLsb' 16 6

end Sys2Proof.Machine
end

