-- ==== Sys2Proof/Machine/Ops.lean ====
section
/-! DEFINITION. The named operations every meaning is written over: the host's operation sequence, the two kinds of
abnormal outcome (rules R902 and R903), the host's memory and the draws of free values, the two FDS register files
and the ring buffers. -/

namespace Sys2Proof.Machine

/-! ### The host's operation sequence -/

/-- The next operation of the host's sequence, and the state with it taken: the index advances by one (rules R17 and
R100). DESIGN CHOICE (log entry 3): the sequence stands in State. -/
def nextOperation (s : State) : Option (OpWord × State) :=
  match s.host.ops with
  | [] => none
  | w :: rest => some (w, { s with host := { s.host with ops := rest, index := s.host.index + 1 } })

/-- The host issues further operations, after those pending (rule R17). -/
def issue (ops : List OpWord) (s : State) : State :=
  { s with host := { s.host with ops := s.host.ops ++ ops } }

/-- Track start (rules R412 and R1004): power-up, then `FDS_INIT_SEQUENCE` if the NSF uses the FDS, with no TICK
between its writes, then the track's own operations. -/
def trackStart (usesFds : Bool) (song : List OpWord) : State :=
  issue ((if usesFds then Config.fdsInitSequence.map (fun w => writeWord w.1 w.2) else []) ++ song) State.reset

/-- The device tells the host something. -/
def emit (e : Event) (s : State) : State :=
  { s with host := { s.host with events := e :: s.host.events } }

/-! ### Abnormal outcomes -/

/-- The condition a fault reports (rule R901). -/
def Fault.condition : Fault → Condition
  | .badModCommand => .badModCommand

/-- Taking a fault (rule R902): `dev.faulted` is set; the operation ends there, and what it did before stays. DEDUCED (log
entry 2): the faulted state is a next state, which the TICK answers. -/
def takeFault (f : Fault) (s : State) : State :=
  emit (.condition f.condition) { s with dev := { s.dev with faulted := true } }

/-- Refusing an operation (rule R903): `dev.refused` is set, no other state of the device changes, and later
operations proceed normally. DEDUCED (log entry 1): a next state. -/
def refuse (c : Condition) (s : State) : State :=
  emit (.condition c) { s with dev := { s.dev with refused := true } }

/-- The device is stuck: after a fault every later operation leaves all state unchanged (rule R902). There is no
return from it but power-up (rule R1003). -/
def stuck (s : State) : Bool := s.dev.faulted

/-! ### The host's memory and the free values -/

/-- The byte the host has fixed at an address, if it has. -/
def Memory.lookup : Memory → Nat → Option Byte
  | [], _ => none
  | (b, v) :: rest, a => if b = a then some v else Memory.lookup rest a

/-- The host fixes the byte at an address (the device itself never writes memory, rule R16). -/
def Memory.place : Memory → Nat → Byte → Memory
  | [], a, v => [(a, v)]
  | (b, u) :: rest, a, v =>
    if a < b then (a, v) :: (b, u) :: rest
    else if a = b then (a, v) :: rest
    else (b, u) :: Memory.place rest a v

/-- The addresses of a memory are at least `lo`, strictly rising, and inside the 16-bit sample space (rule R200). -/
def Memory.wfFrom (lo : Nat) : Memory → Bool
  | [] => true
  | (a, _) :: rest => decide (lo ≤ a) && decide (a < 0x10000) && Memory.wfFrom (a + 1) rest

/-- The canonical form of memory: addresses strictly rising, inside the 16-bit sample space. -/
def Memory.wf (m : Memory) : Bool := Memory.wfFrom 0 m

/-- The number of the next free value, and the state with it drawn. DESIGN CHOICE (log entry 6). -/
def draw (s : State) : Nat × State :=
  (s.host.draws, { s with host := { s.host with draws := s.host.draws + 1 } })

/-- The host's answer to `MemRead(a, 1)` (rules R210 and R716): the byte the host has fixed there, else a free
value of this draw. DESIGN CHOICE (log entry 5). -/
def memAnswer (s : State) (a : Addr) : Byte :=
  match s.host.memory.lookup a.toNat with
  | some v => v
  | none => Config.hostByte s.host.draws a

/-- `MemRead(a, 1)` (rules R16, R210 and R716): an event the host sees; every address is readable. -/
def memRead (a : Addr) (s : State) : Byte × State :=
  (memAnswer s a, emit (.memRead a (memAnswer s a)) (draw s).2)

/-! ### The FDS register files (rule R117) -/

/-- The wave RAM entry `i`. -/
def waveEntry (w : FdsWave) (i : BitVec 6) : BitVec 6 := w.table[i.toNat]'i.isLt

/-- The wave unit with entry `i` of its RAM replaced. -/
def setWaveEntry (w : FdsWave) (i : BitVec 6) (v : BitVec 6) : FdsWave :=
  { w with table := w.table.set i.toNat v i.isLt }

/-- The modulation table entry `i`. -/
def modEntry (m : FdsMod) (i : BitVec 6) : Byte := m.table[i.toNat]'i.isLt

/-- The modulator with entry `i` of its table replaced. -/
def setModEntry (m : FdsMod) (i : BitVec 6) (v : Byte) : FdsMod :=
  { m with table := m.table.set i.toNat v i.isLt }

/-! ### The channels' ring buffers (rules R501 and R502) -/

/-- The channel id of RECORD (rule R302). -/
def Channel.id : Channel → Nat
  | .p1 => 0
  | .p2 => 1
  | .tri => 2
  | .noi => 3
  | .dmc => 4
  | .fds => 5

/-- A channel's buffers. -/
def Channels.get (c : Channels) : Channel → ChannelBuf
  | .p1 => c.p1
  | .p2 => c.p2
  | .tri => c.tri
  | .noi => c.noi
  | .dmc => c.dmc
  | .fds => c.fds

/-- The channels with one channel's buffers replaced. -/
def Channels.set (c : Channels) (ch : Channel) (b : ChannelBuf) : Channels :=
  match ch with
  | .p1 => { c with p1 := b }
  | .p2 => { c with p2 := b }
  | .tri => { c with tri := b }
  | .noi => { c with noi := b }
  | .dmc => { c with dmc := b }
  | .fds => { c with fds := b }

/-- `RING_CAPACITY` of a buffer (rule R501). -/
def ChannelBuf.capacity (b : ChannelBuf) : Nat := b.samples.length

/-- `Push` (rule R502): both buffers are written at the cursor, which wraps modulo the capacity. -/
def ChannelBuf.push (b : ChannelBuf) (v : Sample) (e : Bool) : ChannelBuf :=
  { b with samples := b.samples.set b.cursor v, edges := b.edges.set b.cursor e,
           cursor := (b.cursor + 1) % b.capacity }

/-- `mute(ch)` and `unmute(ch)` (rule R509): host calls between operations, not operations (log entry 23). -/
def setMuted (ch : Channel) (m : Bool) (s : State) : State :=
  { s with channels := s.channels.set ch { s.channels.get ch with muted := m } }

/-- `muted(ch)` (rule R509). -/
def isMuted (ch : Channel) (s : State) : Bool := (s.channels.get ch).muted

/-! ### Updates of one unit -/

/-- The state with the APU replaced. -/
def State.withApu (s : State) (a : Apu) : State := { s with apu := a }

/-- The state with the FDS replaced. -/
def State.withFds (s : State) (f : Fds) : State := { s with fds := f }

end Sys2Proof.Machine
end

