-- ==== Sys2Proof/Machine/Flags.lean ====
section
/-! DEFINITION. The device's flags (rule R115): the stored interrupt flags, the derived status bits, the `$4015`
status byte and the IRQ line. -/

namespace Sys2Proof.Machine

/-- The IRQ line (rules R102 and R905): a level, the OR of the two interrupt flags. The device never takes it (rule R908;
log entry 22). -/
def irqLine (a : Apu) : Bool := a.frame.frameIrq || a.dmc.irqFlag

/-- A length counter is nonzero, one of the derived status bits (rule R115). -/
def lengthActive (len : BitVec 8) : Bool := len != 0#8

/-- The DMC has bytes remaining, the fifth derived status bit (rule R115). -/
def dmcActive (m : Dmc) : Bool := m.bytesRem != 0#12

/-- The byte a `$4015` READ returns, with the undriven bit 5 given (rule R752). -/
def statusByte (a : Apu) (bit5 : Bool) : Byte :=
  BitVec.ofBool a.dmc.irqFlag ++ BitVec.ofBool a.frame.frameIrq ++ BitVec.ofBool bit5 ++
  BitVec.ofBool (dmcActive a.dmc) ++ BitVec.ofBool (lengthActive a.noise.length) ++
  BitVec.ofBool (lengthActive a.tri.length) ++ BitVec.ofBool (lengthActive a.pulse2.length) ++
  BitVec.ofBool (lengthActive a.pulse1.length)

/-- Clearing the frame interrupt flag (rules R752 and R753). -/
def clearFrameIrq (f : Frame) : Frame := { f with frameIrq := false }

/-- Clearing the DMC interrupt flag (rules R701 and R751). -/
def clearDmcIrq (m : Dmc) : Dmc := { m with irqFlag := false }

end Sys2Proof.Machine
end

