-- ==== Sys2Proof/Machine/Pulse.lean ====
section
/-! DEFINITION. The 2A03 pulse channels (spec/43_2a03_pulse.md), and the envelope and length clocks they share with
noise and triangle. `first` is true for pulse 1, the channel whose sweep negates by ones' complement. -/

namespace Sys2Proof.Machine

/-! ### Clocks -/

/-- `EnvQuarter` (rule R557), from the unit's `vol` and `halt`. -/
def envQuarter (vol : BitVec 4) (halt : Bool) (e : Envelope) : Envelope :=
  if e.start then { start := false, decay := 15, div := vol }
  else if e.div = 0 then
    { e with div := vol,
             decay := if e.decay = 0 then (if halt then 15 else 0) else e.decay - 1 }
  else { e with div := e.div - 1 }

/-- `EnvVolume` (rule R557). -/
def envVolume (constVol : Bool) (vol : BitVec 4) (e : Envelope) : Nat :=
  if constVol then vol.toNat else e.decay.toNat

/-- `LengthHalf` (rule R562) on a length counter, with the unit's halt flag. -/
def lengthHalf (halt : Bool) (len : BitVec 8) : BitVec 8 :=
  if !halt && lengthActive len then len - 1 else len

/-- `PulseTimer` (rule R556). -/
def pulseTimer (p : Pulse) : Pulse :=
  if p.timer = 0 then { p with timer := p.period, seq := p.seq - 1 }
  else { p with timer := p.timer - 1 }

/-- `Target` (rule R558), a signed integer. -/
def sweepTarget (first : Bool) (p : Pulse) : Int :=
  let change : Int := (p.period.toNat >>> p.sweepShift.toNat : Nat)
  if p.sweepNegate then (p.period.toNat : Int) - change - (if first then 1 else 0)
  else (p.period.toNat : Int) + change

/-- `Muted` (rule R559). -/
def sweepMuted (first : Bool) (p : Pulse) : Bool :=
  decide (p.period.toNat < 8) || decide (sweepTarget first p > 0x7FF)

/-- The sweep's period update of rule R561 happens at this clock. -/
def sweepFires (first : Bool) (p : Pulse) : Bool :=
  decide (p.sweepDiv = 0) && p.sweepEnable && decide (p.sweepShift ≠ 0) && !sweepMuted first p

/-- `SweepHalf` (rule R561). -/
def sweepHalf (first : Bool) (p : Pulse) : Pulse :=
  { p with
    period := if sweepFires first p then BitVec.ofInt 11 (sweepTarget first p) else p.period,
    sweepDiv := if p.sweepDiv = 0 ∨ p.sweepReload = true then p.sweepPeriod else p.sweepDiv - 1,
    sweepReload := if p.sweepDiv = 0 ∨ p.sweepReload = true then false else p.sweepReload }

/-- A pulse channel at a quarter frame (rule R760). -/
def pulseQuarter (p : Pulse) : Pulse := { p with env := envQuarter p.vol p.halt p.env }

/-- A pulse channel's length counter at a half frame (rule R760). -/
def pulseLengthHalf (p : Pulse) : Pulse := { p with length := lengthHalf p.halt p.length }

/-- `PulseOut` (rule R560), 0 to 15. -/
def pulseOut (first : Bool) (p : Pulse) : Nat :=
  if !dutyBit p.duty p.seq || !lengthActive p.length || sweepMuted first p then 0
  else envVolume p.constVol p.vol p.env

/-! ### Register writes -/

/-- The control register (rule R551). -/
def pulseControl (d : Byte) (p : Pulse) : Pulse :=
  { p with duty := d.extractLsb' 6 2, halt := bit d 5, constVol := bit d 4, vol := d.extractLsb' 0 4 }

/-- The sweep register (rule R552). -/
def pulseSweep (d : Byte) (p : Pulse) : Pulse :=
  { p with sweepEnable := bit d 7, sweepPeriod := d.extractLsb' 4 3, sweepNegate := bit d 3,
           sweepShift := d.extractLsb' 0 3, sweepReload := true }

/-- The period low register (rule R553). -/
def pulsePeriodLow (d : Byte) (p : Pulse) : Pulse := { p with period := withLow11 p.period d }

/-- The length and period high register (rule R554). -/
def pulseLengthHigh (d : Byte) (p : Pulse) : Pulse :=
  { p with period := withHigh11 p.period d, length := if p.enabled then lengthOf d else p.length, seq := 0,
           env := { p.env with start := true } }

/-- The state with pulse 1 changed. -/
def onPulse1 (f : Pulse → Pulse) (s : State) : State := s.withApu { s.apu with pulse1 := f s.apu.pulse1 }

/-- The state with pulse 2 changed. -/
def onPulse2 (f : Pulse → Pulse) (s : State) : State := s.withApu { s.apu with pulse2 := f s.apu.pulse2 }

/-- `WR $4000, #d` (rules R550 and R551). -/
def execWrPulse1Control (d : Byte) (s : State) : Result := .next (onPulse1 (pulseControl d) s)

/-- `WR $4001, #d` (rule R552). -/
def execWrPulse1Sweep (d : Byte) (s : State) : Result := .next (onPulse1 (pulseSweep d) s)

/-- `WR $4002, #d` (rule R553). -/
def execWrPulse1PeriodLow (d : Byte) (s : State) : Result := .next (onPulse1 (pulsePeriodLow d) s)

/-- `WR $4003, #d` (rule R554). -/
def execWrPulse1LengthHigh (d : Byte) (s : State) : Result := .next (onPulse1 (pulseLengthHigh d) s)

/-- `WR $4004, #d` (rule R551). -/
def execWrPulse2Control (d : Byte) (s : State) : Result := .next (onPulse2 (pulseControl d) s)

/-- `WR $4005, #d` (rule R552). -/
def execWrPulse2Sweep (d : Byte) (s : State) : Result := .next (onPulse2 (pulseSweep d) s)

/-- `WR $4006, #d` (rule R553). -/
def execWrPulse2PeriodLow (d : Byte) (s : State) : Result := .next (onPulse2 (pulsePeriodLow d) s)

/-- `WR $4007, #d` (rule R554). -/
def execWrPulse2LengthHigh (d : Byte) (s : State) : Result := .next (onPulse2 (pulseLengthHigh d) s)

end Sys2Proof.Machine
end

