-- ==== Sys2Proof/Machine/Triangle.lean ====
section
/-! DEFINITION. The 2A03 triangle channel (spec/44_2a03_triangle.md). -/

namespace Sys2Proof.Machine

/-- `LinearQuarter` (rule R605). -/
def linearQuarter (t : Triangle) : Triangle :=
  { t with
    linear := if t.linearReload then t.linearReloadValue
              else if t.linear = 0 then 0 else t.linear - 1,
    linearReload := t.linearReload && t.control }

/-- The triangle's sequencer would advance: both counters are nonzero (rules R506 and R606). -/
def triRuns (t : Triangle) : Bool := lengthActive t.length && decide (t.linear ≠ 0)

/-- `TriTimer` (rule R606). -/
def triTimer (t : Triangle) : Triangle :=
  if t.timer = 0 then { t with timer := t.period, seq := if triRuns t then t.seq + 1 else t.seq }
  else { t with timer := t.timer - 1 }

/-- The triangle's length counter at a half frame (rules R562 and R760: its halt is `control`). -/
def triLengthHalf (t : Triangle) : Triangle := { t with length := lengthHalf t.control t.length }

/-- `TriOut` (rule R610), 0 to 15; 15 at power-up (DEDUCED, log entry 14). -/
def triOut (t : Triangle) : Nat := triSeq t.seq

/-- The linear counter register (rule R601). -/
def triLinear (d : Byte) (t : Triangle) : Triangle :=
  { t with control := bit d 7, linearReloadValue := d.extractLsb' 0 7 }

/-- The period low register (rule R602). -/
def triPeriodLow (d : Byte) (t : Triangle) : Triangle := { t with period := withLow11 t.period d }

/-- The length and period high register (rule R603). -/
def triLengthHigh (d : Byte) (t : Triangle) : Triangle :=
  { t with period := withHigh11 t.period d, length := if t.enabled then lengthOf d else t.length,
           linearReload := true }

/-- The state with the triangle changed. -/
def onTri (f : Triangle → Triangle) (s : State) : State := s.withApu { s.apu with tri := f s.apu.tri }

/-- `WR $4008, #d` (rules R600 and R601). -/
def execWrTriLinear (d : Byte) (s : State) : Result := .next (onTri (triLinear d) s)

/-- `WR $400A, #d` (rule R602). -/
def execWrTriPeriodLow (d : Byte) (s : State) : Result := .next (onTri (triPeriodLow d) s)

/-- `WR $400B, #d` (rule R603). -/
def execWrTriLengthHigh (d : Byte) (s : State) : Result := .next (onTri (triLengthHigh d) s)

end Sys2Proof.Machine
end

