-- ==== Sys2Proof/Machine/Noise.lean ====
section
/-! DEFINITION. The 2A03 noise channel (spec/45_2a03_noise.md). -/

namespace Sys2Proof.Machine

/-- `LfsrStep` (rule R657) on the register, with the mode. -/
def lfsrStep (mode : Bool) (r : BitVec 15) : BitVec 15 :=
  BitVec.ofBool (r.getLsbD 0 ^^ (if mode then r.getLsbD 6 else r.getLsbD 1)) ++ r.extractLsb' 1 14

/-- `NoiseTimer` (rule R656). -/
def noiseTimer (n : Noise) : Noise :=
  if n.timer = 0 then
    { n with timer := BitVec.ofNat 12 (noisePeriod n.periodIndex - 1), lfsr := lfsrStep n.mode n.lfsr }
  else { n with timer := n.timer - 1 }

/-- The noise envelope at a quarter frame (rules R557 and R760). -/
def noiseQuarter (n : Noise) : Noise := { n with env := envQuarter n.vol n.halt n.env }

/-- The noise length counter at a half frame (rules R562 and R760). -/
def noiseLengthHalf (n : Noise) : Noise := { n with length := lengthHalf n.halt n.length }

/-- `NoiseOut` (rule R662), 0 to 15. -/
def noiseOut (n : Noise) : Nat :=
  if n.lfsr.getLsbD 0 || !lengthActive n.length then 0 else envVolume n.constVol n.vol n.env

/-- The control register (rule R651). -/
def noiseControl (d : Byte) (n : Noise) : Noise :=
  { n with halt := bit d 5, constVol := bit d 4, vol := d.extractLsb' 0 4 }

/-- The mode and period register (rule R652). -/
def noiseMode (d : Byte) (n : Noise) : Noise := { n with mode := bit d 7, periodIndex := d.extractLsb' 0 4 }

/-- The length register (rule R653). -/
def noiseLength (d : Byte) (n : Noise) : Noise :=
  { n with length := if n.enabled then lengthOf d else n.length, env := { n.env with start := true } }

/-- The state with the noise channel changed. -/
def onNoise (f : Noise → Noise) (s : State) : State := s.withApu { s.apu with noise := f s.apu.noise }

/-- `WR $400C, #d` (rules R650 and R651). -/
def execWrNoiseControl (d : Byte) (s : State) : Result := .next (onNoise (noiseControl d) s)

/-- `WR $400E, #d` (rule R652). -/
def execWrNoiseMode (d : Byte) (s : State) : Result := .next (onNoise (noiseMode d) s)

/-- `WR $400F, #d` (rule R653). -/
def execWrNoiseLength (d : Byte) (s : State) : Result := .next (onNoise (noiseLength d) s)

end Sys2Proof.Machine
end

