-- ==== Sys2Proof/Machine/Dmc.lean ====
section
/-! DEFINITION. The 2A03 delta-modulation channel (spec/46_2a03_dmc.md). -/

namespace Sys2Proof.Machine

/-- `DmcRestart` (rule R708). -/
def dmcRestart (m : Dmc) : Dmc :=
  { m with curAddr := BitVec.ofNat 16 (0xC000 + m.sampleAddr.toNat * 64),
           bytesRem := BitVec.ofNat 12 (m.sampleLen.toNat * 16 + 1) }

/-- The output level after one bit of the output unit (rule R707): it moves by 2 and saturates. -/
def dmcLevelStep (up : Bool) (v : BitVec 7) : BitVec 7 :=
  if up then (if v.toNat ≤ 125 then v + 2 else v) else (if 2 ≤ v.toNat then v - 2 else v)

/-- The first part of `DmcOutputClock` (rule R707): the level, the shift register and the bit count. -/
def dmcShift (m : Dmc) : Dmc :=
  { m with level := if m.silence then m.level else dmcLevelStep (m.shift.getLsbD 0) m.level,
           shift := m.shift >>> 1, bitsRem := m.bitsRem - 1 }

/-- The second part of `DmcOutputClock` (rule R707): a new output cycle when the bit count has run out. -/
def dmcNewCycle (m : Dmc) : Dmc :=
  if m.bitsRem = 0 then
    if m.bufferFull then { m with bitsRem := 8, silence := false, shift := m.buffer, bufferFull := false }
    else { m with bitsRem := 8, silence := true }
  else m

/-- `DmcOutputClock` (rule R707). -/
def dmcOutputClock (m : Dmc) : Dmc := dmcNewCycle (dmcShift m)

/-- `DmcTimer` (rule R706). -/
def dmcTimer (m : Dmc) : Dmc :=
  if m.timer = 0 then dmcOutputClock { m with timer := BitVec.ofNat 9 (dmcRate m.rateIndex - 1) }
  else { m with timer := m.timer - 1 }

/-- The memory reader fetches at this TICK (rule R716). -/
def dmcFetches (m : Dmc) : Bool := !m.bufferFull && dmcActive m

/-- The address after a fetch: from `$FFFF` it wraps to `$8000` (rule R716). -/
def dmcNextAddr (a : Addr) : Addr := if a = 0xFFFF#16 then 0x8000#16 else a + 1

/-- The end of the sample (rule R716): a looping sample restarts, another raises the interrupt flag if enabled. -/
def dmcSampleEnd (m : Dmc) : Dmc :=
  if m.bytesRem = 0 then
    if m.loop then dmcRestart m else { m with irqFlag := m.irqFlag || m.irqEnable }
  else m

/-- What `DmcReader` (rule R716) does with the byte the host answers. -/
def dmcFetched (v : Byte) (m : Dmc) : Dmc :=
  dmcSampleEnd { m with buffer := v, bufferFull := true, curAddr := dmcNextAddr m.curAddr,
                        bytesRem := m.bytesRem - 1 }

/-- The state with the DMC changed. -/
def onDmc (f : Dmc → Dmc) (s : State) : State := s.withApu { s.apu with dmc := f s.apu.dmc }

/-- `DmcReader` (rule R716). -/
def dmcReader (s : State) : State :=
  if dmcFetches s.apu.dmc then
    onDmc (dmcFetched (memRead s.apu.dmc.curAddr s).1) (memRead s.apu.dmc.curAddr s).2
  else s

/-- The control register (rule R701): clearing the enable clears the interrupt flag. -/
def dmcControl (d : Byte) (m : Dmc) : Dmc :=
  { m with irqEnable := bit d 7, loop := bit d 6, rateIndex := d.extractLsb' 0 4,
           irqFlag := m.irqFlag && bit d 7 }

/-- The direct load register (rule R702). -/
def dmcLoad (d : Byte) (m : Dmc) : Dmc := { m with level := d.extractLsb' 0 7 }

/-- The sample address register (rule R703). -/
def dmcAddress (d : Byte) (m : Dmc) : Dmc := { m with sampleAddr := d }

/-- The sample length register (rule R704). -/
def dmcLength (d : Byte) (m : Dmc) : Dmc := { m with sampleLen := d }

/-- `WR $4010, #d` (rules R700 and R701). -/
def execWrDmcControl (d : Byte) (s : State) : Result := .next (onDmc (dmcControl d) s)

/-- `WR $4011, #d` (rule R702). -/
def execWrDmcLoad (d : Byte) (s : State) : Result := .next (onDmc (dmcLoad d) s)

/-- `WR $4012, #d` (rule R703). -/
def execWrDmcAddress (d : Byte) (s : State) : Result := .next (onDmc (dmcAddress d) s)

/-- `WR $4013, #d` (rule R704). -/
def execWrDmcLength (d : Byte) (s : State) : Result := .next (onDmc (dmcLength d) s)

end Sys2Proof.Machine
end

