-- ==== Sys2Proof/Machine/Frame.lean ====
section
/-! DEFINITION. The 2A03 status register and frame counter (spec/47_2a03_frame_status_mixer.md, rules R750 to
R762). -/

namespace Sys2Proof.Machine

/-! ### Status register -/

/-- The DMC part of a `$4015` WRITE (rule R751). -/
def dmcEnable (on : Bool) (m : Dmc) : Dmc :=
  if on then (if m.bytesRem = 0 then dmcRestart m else m) else { m with bytesRem := 0 }

/-- A `$4015` WRITE (rule R751). -/
def statusWrite (d : Byte) (a : Apu) : Apu :=
  { a with
    pulse1 := { a.pulse1 with enabled := bit d 0, length := if bit d 0 then a.pulse1.length else 0 },
    pulse2 := { a.pulse2 with enabled := bit d 1, length := if bit d 1 then a.pulse2.length else 0 },
    tri := { a.tri with enabled := bit d 2, length := if bit d 2 then a.tri.length else 0 },
    noise := { a.noise with enabled := bit d 3, length := if bit d 3 then a.noise.length else 0 },
    dmc := clearDmcIrq (dmcEnable (bit d 4) a.dmc) }

/-- `WR $4015, #d` (rules R750 and R751). -/
def execWrStatus (d : Byte) (s : State) : Result := .next (s.withApu (statusWrite d s.apu))

/-- The byte this `$4015` READ returns: its bit 5 is a draw of the open bus (rule R752). -/
def statusReply (s : State) : Byte := statusByte s.apu ((Config.openBus s.host.draws).getLsbD 5)

/-- `RD $4015` (rule R752): the byte is formed, then the frame interrupt flag is cleared. -/
def execRdStatus (s : State) : Result :=
  .next (emit (.readReply (statusReply s))
    ((draw s).2.withApu { s.apu with frame := clearFrameIrq s.apu.frame }))

/-! ### Frame counter -/

/-- The delay of a `$4017` WRITE (rules R753 and R1010): 3 TICKs after an even number of TICKs, 4 after an odd. -/
def frameDelay (cycle : Nat) : Nat := if cycle % 2 = 0 then 3 else 4

/-- A `$4017` WRITE (rule R753). -/
def frameWrite (d : Byte) (cycle : Nat) (f : Frame) : Frame :=
  { f with mode := bit d 7, irqInhibit := bit d 6, frameIrq := f.frameIrq && !bit d 6,
           pending := frameDelay cycle }

/-- `WR $4017, #d` (rule R753). -/
def execWrFrameCounter (d : Byte) (s : State) : Result :=
  .next (s.withApu { s.apu with frame := frameWrite d s.dev.cycle s.apu.frame })

/-- `Quarter` (rule R760). -/
def quarterFrame (a : Apu) : Apu :=
  { a with pulse1 := pulseQuarter a.pulse1, pulse2 := pulseQuarter a.pulse2, noise := noiseQuarter a.noise,
           tri := linearQuarter a.tri }

/-- `Half` (rule R760): the four length counters, then the two sweeps. -/
def halfFrame (a : Apu) : Apu :=
  { a with pulse1 := sweepHalf true (pulseLengthHalf a.pulse1),
           pulse2 := sweepHalf false (pulseLengthHalf a.pulse2),
           tri := triLengthHalf a.tri, noise := noiseLengthHalf a.noise }

/-- A count at which the sequence of rule R761 clocks a quarter frame. -/
def quarterAt (fiveStep : Bool) (n : Nat) : Bool :=
  decide (n = 7457) || decide (n = 14913) || decide (n = 22371) || decide (n = if fiveStep then 37281 else 29829)

/-- A count at which the sequence of rule R761 clocks a half frame. -/
def halfAt (fiveStep : Bool) (n : Nat) : Bool :=
  decide (n = 14913) || decide (n = if fiveStep then 37281 else 29829)

/-- A count at which the 4-step sequence of rule R761 sets the frame interrupt flag, if not inhibited. -/
def irqAt (fiveStep : Bool) (n : Nat) : Bool :=
  !fiveStep && (decide (n = 29828) || decide (n = 29829) || decide (n = 29830))

/-- The count at which the sequence of rule R761 starts again from 0. -/
def wrapAt (fiveStep : Bool) (n : Nat) : Bool := decide (n = if fiveStep then 37282 else 29830)

/-- The channels at the count just reached: the quarter frame, then the half frame, that rule R761 gives it. -/
def frameClocks (a : Apu) : Apu :=
  let q := if quarterAt a.frame.mode a.frame.count.toNat then quarterFrame a else a
  if halfAt a.frame.mode a.frame.count.toNat then halfFrame q else q

/-- The step positions of rule R761 at the count just reached: the clocks, the interrupt flag and the wrap. -/
def frameSteps (a : Apu) : Apu :=
  { frameClocks a with frame := { a.frame with
      frameIrq := a.frame.frameIrq || (irqAt a.frame.mode a.frame.count.toNat && !a.frame.irqInhibit),
      count := if wrapAt a.frame.mode a.frame.count.toNat then 0 else a.frame.count } }

/-- `FrameTick` (rule R761): the delayed effect of a `$4017` WRITE when its delay runs out, else one count. -/
def frameTick (a : Apu) : Apu :=
  if a.frame.pending = 1 then
    let r := { a with frame := { a.frame with pending := 0, count := 0 } }
    if a.frame.mode then halfFrame (quarterFrame r) else r
  else
    frameSteps { a with frame := { a.frame with pending := a.frame.pending - 1, count := a.frame.count + 1 } }

end Sys2Proof.Machine
end

