-- ==== Sys2Proof/Machine/FdsRegisters.lean ====
section
/-! DEFINITION. The FDS register writes (spec/40_fds_registers.md). -/

namespace Sys2Proof.Machine

/-- An envelope configuration byte (rules R402 and R405): a write with bit 7 set also forces the output to the speed. -/
def envConfig (d : Byte) (e : FdsEnv) : FdsEnv :=
  { speed := d.extractLsb' 0 6, disable := bit d 7, increase := bit d 6, timer := 0,
    output := if bit d 7 then d.extractLsb' 0 6 else e.output }

/-- The wave RAM write (rule R401): gated by `write_enable`, masked by `WAVE_SAMPLE_MASK`. -/
def waveRamWrite (mask : BitVec 6) (i : BitVec 6) (d : Byte) (w : FdsWave) : FdsWave :=
  if w.writeEnable then setWaveEntry w i (d.extractLsb' 0 6 &&& mask) else w

/-- The wave frequency high and halts register (rule R404). -/
def waveFreqHigh (haltResetsPhase : Bool) (d : Byte) (w : FdsWave) : FdsWave :=
  { w with frequency := withHigh16 w.frequency d, halt := bit d 7,
           envHaltLatch := w.envHaltLatch || (bit d 6 != w.envHalt), envHalt := bit d 6,
           phase := if bit d 7 && haltResetsPhase then 0 else w.phase }

/-- The modulator frequency high and halt register (rule R408): a halt clears the low 16 bits of the phase. -/
def modFreqHigh (d : Byte) (m : FdsMod) : FdsMod :=
  { m with frequency := withHigh12 m.frequency d, halt := bit d 7,
           phase := if bit d 7 then tableIndex m.phase ++ 0#16 else m.phase }

/-- The modulation table write of the default `MOD_TABLE_WRITE_MODEL` (rule R409): two entries, while halted. -/
def modTableWriteTwo (c : BitVec 3) (m : FdsMod) : FdsMod :=
  if m.halt then
    { setModEntry (setModEntry m m.writePos (c.setWidth 8)) (m.writePos + 1) (c.setWidth 8) with
      writePos := m.writePos + 2 }
  else m

/-- The modulation table write of a supplied `MOD_TABLE_WRITE_MODEL`: a free value, of 3-bit commands (log entry 8). -/
def modTableWriteSupplied (c : BitVec 3) (m : FdsMod) : FdsMod :=
  let r := Config.modTableWriteModel c m.halt m.writePos m.table
  { m with table := r.1.map (fun e => e.setWidth 8), writePos := r.2 }

/-- The modulation table write (rule R409) under the parameter `MOD_TABLE_WRITE_MODEL`. -/
def modTableWrite (k : ModTableWriteModel) (d : Byte) (m : FdsMod) : FdsMod :=
  match k with
  | .twoEntriesWhileHalted => modTableWriteTwo (d.extractLsb' 0 3) m
  | .supplied => modTableWriteSupplied (d.extractLsb' 0 3) m

/-- The state with the wave unit changed. -/
def onWave (f : FdsWave → FdsWave) (s : State) : State := s.withFds { s.fds with wave := f s.fds.wave }

/-- The state with the modulator changed. -/
def onMod (f : FdsMod → FdsMod) (s : State) : State := s.withFds { s.fds with mod := f s.fds.mod }

/-- `WR $4040+i, #d` (rules R400 and R401). -/
def execWrFdsWaveRam (i : BitVec 6) (d : Byte) (s : State) : Result :=
  .next (onWave (waveRamWrite s.params.waveSampleMask i d) s)

/-- `WR $4080, #d` (rule R402). -/
def execWrFdsVolumeEnv (d : Byte) (s : State) : Result :=
  .next (s.withFds { s.fds with volEnv := envConfig d s.fds.volEnv })

/-- `WR $4082, #d` (rule R403). -/
def execWrFdsWaveFreqLow (d : Byte) (s : State) : Result :=
  .next (onWave (fun w => { w with frequency := withLow16 w.frequency d }) s)

/-- `WR $4083, #d` (rule R404). -/
def execWrFdsWaveFreqHigh (d : Byte) (s : State) : Result :=
  .next (onWave (waveFreqHigh s.params.waveHaltResetsPhase d) s)

/-- `WR $4084, #d` (rule R405). -/
def execWrFdsModEnv (d : Byte) (s : State) : Result :=
  .next (s.withFds { s.fds with modEnv := envConfig d s.fds.modEnv })

/-- `WR $4085, #d` (rule R406). -/
def execWrFdsModPosition (d : Byte) (s : State) : Result :=
  .next (onMod (fun m => { m with position := d.extractLsb' 0 7 }) s)

/-- `WR $4086, #d` (rule R407). -/
def execWrFdsModFreqLow (d : Byte) (s : State) : Result :=
  .next (onMod (fun m => { m with frequency := withLow12 m.frequency d }) s)

/-- `WR $4087, #d` (rule R408). -/
def execWrFdsModFreqHigh (d : Byte) (s : State) : Result := .next (onMod (modFreqHigh d) s)

/-- `WR $4088, #d` (rule R409). -/
def execWrFdsModTable (d : Byte) (s : State) : Result :=
  .next (onMod (modTableWrite s.params.modTableWriteModel d) s)

/-- `WR $4089, #d` (rule R410). -/
def execWrFdsWaveConfig (d : Byte) (s : State) : Result :=
  .next (onWave (fun w => { w with writeEnable := bit d 7, masterVolume := d.extractLsb' 0 2 }) s)

/-- `WR $408A, #d` (rule R411). -/
def execWrFdsMasterSpeed (d : Byte) (s : State) : Result := .next (s.withFds { s.fds with masterSpeed := d })

end Sys2Proof.Machine
end

