-- ==== Sys2Proof/Machine/FdsClocks.lean ====
section
/-! DEFINITION. The FDS clocked units and output (spec/41_fds_clocks.md), and the meanings of the eight modulator
commands, which the modulator clock runs inside a TICK. -/

namespace Sys2Proof.Machine

/-! ### Envelopes -/

/-- One turn of the loop of `EnvClock` (rule R451): toward 32, or toward 0. -/
def envStepOutput (increase : Bool) (o : BitVec 6) : BitVec 6 :=
  if increase then (if o.toNat < 32 then o + 1 else o) else (if 0 < o.toNat then o - 1 else o)

/-- The loop of `EnvClock` (rule R451), turned `k` times. -/
def envStepsOutput (increase : Bool) : Nat → BitVec 6 → BitVec 6
  | 0, o => o
  | k + 1, o => envStepsOutput increase k (envStepOutput increase o)

/-- The period of an envelope (rule R451). -/
def envPeriod (masterSpeed : Byte) (e : FdsEnv) : Nat := ((e.speed.toNat + 1) * masterSpeed.toNat) <<< 3

/-- `EnvClock` (rule R451). The loop "while timer >= period, subtract the period" turns `(timer + 1) / period`
times and leaves the remainder. DEDUCED (log entry 13): after a lowered master speed that can be more than once. -/
def envClock (masterSpeed : Byte) (e : FdsEnv) : FdsEnv :=
  if e.disable then e
  else
    { e with timer := (e.timer + 1) % envPeriod masterSpeed e,
             output := envStepsOutput e.increase ((e.timer + 1) / envPeriod masterSpeed e) e.output }

/-- Step 1 of the FDS TICK (rule R450): the latch zeroes both envelope timers. -/
def fdsLatchStep (f : Fds) : Fds :=
  if f.wave.envHaltLatch then
    { f with volEnv := { f.volEnv with timer := 0 }, modEnv := { f.modEnv with timer := 0 } }
  else f

/-- Step 2 of the FDS TICK (rule R450) clocks the envelopes. -/
def envelopesRun (f : Fds) : Bool := !f.wave.halt && !f.wave.envHalt && decide (f.masterSpeed ≠ 0)

/-- Step 2 of the FDS TICK (rule R450). -/
def fdsEnvelopeStep (f : Fds) : Fds :=
  if envelopesRun f then
    { f with volEnv := envClock f.masterSpeed f.volEnv, modEnv := envClock f.masterSpeed f.modEnv }
  else f

/-! ### Modulator commands -/

/-- The state with the modulation position moved; the 7-bit position wraps modulo 128 (rule R456). -/
def movePosition (g : BitVec 7 → BitVec 7) (s : State) : State :=
  onMod (fun m => { m with position := g m.position }) s

/-- Command 0 (rule R456). -/
def execMnop (s : State) : Result := .next s

/-- Command 1 (rule R456). -/
def execMadd1 (s : State) : Result := .next (movePosition (fun p => p + 1) s)

/-- Command 2 (rule R456). -/
def execMadd2 (s : State) : Result := .next (movePosition (fun p => p + 2) s)

/-- Command 3 (rule R456). -/
def execMadd4 (s : State) : Result := .next (movePosition (fun p => p + 4) s)

/-- Command 4 (rule R456). -/
def execMrst (s : State) : Result := .next (movePosition (fun _ => 0) s)

/-- Command 5 (rule R456). -/
def execMsub4 (s : State) : Result := .next (movePosition (fun p => p - 4) s)

/-- Command 6 (rule R456). -/
def execMsub2 (s : State) : Result := .next (movePosition (fun p => p - 2) s)

/-- Command 7 (rule R456). -/
def execMsub1 (s : State) : Result := .next (movePosition (fun p => p - 1) s)

/-- `ModExec` (rule R456): the meaning of the command, or `raise Fault(BadModCommand)`. -/
def modExec (c : Byte) (s : State) : Result :=
  match c.toNat with
  | 0 => execMnop s
  | 1 => execMadd1 s
  | 2 => execMadd2 s
  | 3 => execMadd4 s
  | 4 => execMrst s
  | 5 => execMsub4 s
  | 6 => execMsub2 s
  | 7 => execMsub1 s
  | _ => .fault .badModCommand

/-! ### Modulator clock -/

/-- The unmasked new phase of the modulator (rule R455). -/
def modNewPhase (m : FdsMod) : Nat := m.phase.toNat + m.frequency.toNat

/-- The modulator crosses a table-entry boundary at this clock (rule R455). -/
def modCrosses (m : FdsMod) : Bool :=
  !m.halt && decide (m.phase.toNat / 0x10000 < modNewPhase m / 0x10000)

/-- The number of the entry the boundary executes (rule R455, `MOD_TABLE_INDEX`). -/
def modCommandIndex (k : ModTableIndex) (m : FdsMod) : BitVec 6 :=
  match k with
  | .position => m.position.extractLsb' 0 6
  | .boundary => tableIndex m.phase

/-- The table entry the boundary executes (rule R455). -/
def modCommand (s : State) : Byte := modEntry s.fds.mod (modCommandIndex s.params.modTableIndex s.fds.mod)

/-- The modulator's phase after the clock (rule R455), `m` being the unit before it. -/
def modAdvance (m : FdsMod) (s : State) : State :=
  onMod (fun n => { n with phase := BitVec.ofNat 22 (modNewPhase m) }) s

/-- `ModClock` (rule R455). A frequency is below `0x1000`, so at most one boundary is crossed
(DEDUCED, log entry 16). -/
def modClock (s : State) : Result :=
  if s.fds.mod.halt then .next s
  else if modCrosses s.fds.mod then
    match modExec (modCommand s) s with
    | .next t => .next (modAdvance s.fds.mod t)
    | .fault f => .fault f
    | .refused r => .refused r
  else .next (modAdvance s.fds.mod s)

/-! ### Wave table -/

/-- The rounding correction of rule R460 on the product `t`, in mathematical integers (rule R15): the shifted value,
corrected when the low four bits are not 0 and bit 7 of the shifted value is clear (C1). -/
def modQRound (pos7 t : Int) : Int :=
  if t % 16 ≠ 0 ∧ (t / 16 / 128) % 2 = 0 then (if pos7 < 0 then t / 16 - 1 else t / 16 + 2) else t / 16

/-- The normalisation of rule R460 into `[-64, 192)` by adding or subtracting 256. DEDUCED (log entry 15). -/
def modQNormal (t : Int) : Int := (t + 64) % 256 - 64

/-- The position as a 7-bit two's-complement value (rule R460). -/
def pos7 (p : BitVec 7) : Int := (p.toNat : Int) - (if p.getLsbD 6 then 128 else 0)

/-- The scaling of rule R460: shift right by 6, rounding up when the low six bits are at least 32. -/
def modQScale (u : Int) : Int := if u % 64 ≥ 32 then u / 64 + 1 else u / 64

/-- `ModQ` (rule R460). -/
def modQ (p : BitVec 7) (g : BitVec 6) (f : BitVec 16) : Int :=
  if g = 0 then 0
  else modQScale (modQNormal (modQRound (pos7 p) (pos7 p * g.toNat)) * f.toNat)

/-- The phase increment of the wave clock: frequency plus modulation quantity (rule R461). -/
def waveIncrement (f : Fds) : Int :=
  (f.wave.frequency.toNat : Int) + modQ f.mod.position f.modEnv.output f.wave.frequency

/-- `WaveClock` (rule R461). -/
def waveClock (f : Fds) : Fds :=
  if f.wave.halt then { f with wave := { f.wave with envHaltLatch := false } }
  else
    { f with wave := { f.wave with
        envHaltLatch := false,
        phase := BitVec.ofInt 22 ((f.wave.phase.toNat : Int) + waveIncrement f),
        tickFreq := waveIncrement f } }

/-! ### Output -/

/-- The volume envelope's output as the mix takes it: capped at 32 (rule R466). -/
def cappedVolume (e : FdsEnv) : Nat := min e.output.toNat 32

/-- The level of rule R466, exact: `sample * vol * 2 / (master_volume + 2)`. -/
def fdsLevel (f : Fds) : Rat :=
  mkRat (((waveEntry f.wave (tableIndex f.wave.phase)).toNat * cappedVolume f.volEnv * 2 : Nat) : Int)
    (f.wave.masterVolume.toNat + 2)

/-- One step of a single-pole low-pass filter (rules R520 and R521). -/
def lowPass (a y x : Rat) : Rat := y + a * (x - y)

/-- `FdsOutput` (rules R466 and R520), with the table index captured before the clocks. -/
def fdsOutput (a1 : Rat) (oldIndex : BitVec 6) (f : Fds) : Fds :=
  if f.wave.writeEnable then { f with edge := false }
  else
    { f with level := fdsLevel f, y1 := lowPass a1 f.y1 (fdsLevel f), filtered := lowPass a1 f.y1 (fdsLevel f),
             edge := decide ((tableIndex f.wave.phase).toNat < oldIndex.toNat) }

end Sys2Proof.Machine
end

