-- ==== Sys2Proof/Machine/Tick.lean ====
section
/-! DEFINITION. The device tick (rule R770): the 2A03 units, the DMC memory reader, then the FDS tick of rule R450. -/

namespace Sys2Proof.Machine

/-- The 2A03 units of a TICK before the memory reader (rule R770): the frame counter, the triangle timer, the pulse
timers on an APU cycle (`cycle` even), the noise timer and the DMC timer. -/
def apuTick (cycle : Nat) (a : Apu) : Apu :=
  let f := frameTick a
  { f with tri := triTimer f.tri,
           pulse1 := if cycle % 2 = 0 then pulseTimer f.pulse1 else f.pulse1,
           pulse2 := if cycle % 2 = 0 then pulseTimer f.pulse2 else f.pulse2,
           noise := noiseTimer f.noise, dmc := dmcTimer f.dmc }

/-- Everything of a TICK before the modulator clock: the 2A03, the memory reader, and steps 1 and 2 of the FDS tick
(rules R450 and R770). -/
def tickBegin (s : State) : State :=
  let r := dmcReader (s.withApu (apuTick s.dev.cycle s.apu))
  r.withFds (fdsEnvelopeStep (fdsLatchStep r.fds))

/-- Everything of a TICK after the modulator clock (rules R450 and R770): the wave clock, the output with the index
captured before the clocks, and the cycle count. -/
def tickEnd (oldIndex : BitVec 6) (s : State) : State :=
  { s with fds := fdsOutput s.params.filterA1 oldIndex (waveClock s.fds),
           dev := { s.dev with cycle := s.dev.cycle + 1 } }

/-- TICK (rule R770). A fault of the modulator ends it there and is taken as rule R902 says: what came before stays. -/
def execTick (s : State) : Result :=
  match modClock (tickBegin s) with
  | .next t => .next (tickEnd (tableIndex s.fds.wave.phase) t)
  | .fault f => .next (takeFault f (tickBegin s))
  | .refused r => .refused r

end Sys2Proof.Machine
end

