-- ==== Sys2Proof/Machine/Record.lean ====
section
/-! DEFINITION. RECORD (spec/42_channel_interface.md, rules R500 to R523). -/

namespace Sys2Proof.Machine

/-- `Level` (rule R507): a channel's digital output before mixing. -/
def level (ch : Channel) (s : State) : Rat :=
  match ch with
  | .p1 => (pulseOut true s.apu.pulse1 : Rat)
  | .p2 => (pulseOut false s.apu.pulse2 : Rat)
  | .tri => (triOut s.apu.tri : Rat)
  | .noi => (noiseOut s.apu.noise : Rat)
  | .dmc => (s.apu.dmc.level.toNat : Rat)
  | .fds => s.fds.filtered

/-- `EdgeOf` (rule R503, D37). -/
def edgeOf (ch : Channel) (s : State) : Bool :=
  match ch with
  | .fds => s.fds.edge
  | .p1 | .p2 | .tri | .noi | .dmc => false

/-- Stage 2 of the FDS filter (rules R503 and R521). -/
def fdsStage2 (s : State) : State :=
  s.withFds { s.fds with y2 := lowPass s.params.filterA2 s.fds.y2 s.fds.filtered }

/-- The level put through the debug high-pass filter, if it is on (rule R523); its result is a free value. -/
def highPassed (ch : Channel) (v : Rat) (s : State) : Rat × State :=
  if s.params.debugHighpass then (Config.highPass ch.id s.host.draws v, (draw s).2) else (v, s)

/-- The end of RECORD (rules R502 and R503): the sample is quantised and pushed with its edge flag. -/
def pushSample (ch : Channel) (v : Rat) (s : State) : State :=
  let b := (s.channels.get ch).push (Config.sampleQuantize v) (edgeOf ch s)
  { s with channels := s.channels.set ch b }

/-- RECORD of a 2A03 channel (rule R503). -/
def recordChannel (ch : Channel) (s : State) : State :=
  pushSample ch (highPassed ch (level ch s) s).1 (highPassed ch (level ch s) s).2

/-- RECORD of the FDS channel (rules R503 and R521): the level is stage 2 of the filtered level. -/
def recordFds (s : State) : State :=
  pushSample .fds (highPassed .fds (fdsStage2 s).fds.y2 (fdsStage2 s)).1
    (highPassed .fds (fdsStage2 s).fds.y2 (fdsStage2 s)).2

/-- `REC P1` (rule R503). -/
def execRecP1 (s : State) : Result := .next (recordChannel .p1 s)

/-- `REC P2` (rule R503). -/
def execRecP2 (s : State) : Result := .next (recordChannel .p2 s)

/-- `REC TRI` (rule R503). -/
def execRecTri (s : State) : Result := .next (recordChannel .tri s)

/-- `REC NOI` (rule R503). -/
def execRecNoi (s : State) : Result := .next (recordChannel .noi s)

/-- `REC DMC` (rule R503). -/
def execRecDmc (s : State) : Result := .next (recordChannel .dmc s)

/-- `REC FDS` (rule R503). -/
def execRecFds (s : State) : Result := .next (recordFds s)

end Sys2Proof.Machine
end

