-- ==== Sys2Proof/Machine/Unmodelled.lean ====
section
/-! DEFINITION. The operations the block does not decode: WRITEs without effect (rule R311), and the operations the
spec refuses (rules R302, R312 and R314), each taken as rule R903 says. -/

namespace Sys2Proof.Machine

/-- A WRITE the block does not decode (rule R311): no effect on any state, and not refused. -/
def noEffect (s : State) : Result := .next s

/-- A refused operation (rule R903). -/
def refused (c : Condition) (s : State) : Result := .next (refuse c s)

/-- `WR $4009, #d` (rule R311). -/
def execWrUnused4009 (_d : Byte) (s : State) : Result := noEffect s

/-- `WR $400D, #d` (rule R311). -/
def execWrUnused400D (_d : Byte) (s : State) : Result := noEffect s

/-- `WR $4014, #d` (rule R311). -/
def execWrNotApu4014 (_d : Byte) (s : State) : Result := noEffect s

/-- `WR $4016, #d` (rule R311). -/
def execWrNotApu4016 (_d : Byte) (s : State) : Result := noEffect s

/-- `WR $4081, #d` (rule R311). -/
def execWrFdsUnused4081 (_d : Byte) (s : State) : Result := noEffect s

/-- `WR a, #d` at an address no other row names (rule R311). -/
def execWrOther (_a : Addr) (_d : Byte) (s : State) : Result := noEffect s

/-- `WR $4800, #d` (rule R312): an expansion-chip register, and `EXPANSION_MODEL` is not supplied. -/
def execWrN163Data (_d : Byte) (s : State) : Result := refused .unmodelledExpansion s

/-- `WR $5000+i, #d` (rule R312): an expansion-chip register, and `EXPANSION_MODEL` is not supplied. -/
def execWrMmc5Low (_i : BitVec 4) (_d : Byte) (s : State) : Result := refused .unmodelledExpansion s

/-- `WR $5010+i, #d` (rule R312): an expansion-chip register, and `EXPANSION_MODEL` is not supplied. -/
def execWrMmc5Mid (_i : BitVec 2) (_d : Byte) (s : State) : Result := refused .unmodelledExpansion s

/-- `WR $5014+i, #d` (rule R312): an expansion-chip register, and `EXPANSION_MODEL` is not supplied. -/
def execWrMmc5High (_i : BitVec 1) (_d : Byte) (s : State) : Result := refused .unmodelledExpansion s

/-- `WR $9000+i, #d` (rule R312): an expansion-chip register, and `EXPANSION_MODEL` is not supplied. -/
def execWrVrc6Pulse1 (_i : BitVec 2) (_d : Byte) (s : State) : Result := refused .unmodelledExpansion s

/-- `WR $9010, #d` (rule R312): an expansion-chip register, and `EXPANSION_MODEL` is not supplied. -/
def execWrVrc7Address (_d : Byte) (s : State) : Result := refused .unmodelledExpansion s

/-- `WR $9030, #d` (rule R312): an expansion-chip register, and `EXPANSION_MODEL` is not supplied. -/
def execWrVrc7Data (_d : Byte) (s : State) : Result := refused .unmodelledExpansion s

/-- `WR $A000+i, #d` (rule R312): an expansion-chip register, and `EXPANSION_MODEL` is not supplied. -/
def execWrVrc6Pulse2 (_i : BitVec 1) (_d : Byte) (s : State) : Result := refused .unmodelledExpansion s

/-- `WR $A002, #d` (rule R312): an expansion-chip register, and `EXPANSION_MODEL` is not supplied. -/
def execWrVrc6Pulse2Top (_d : Byte) (s : State) : Result := refused .unmodelledExpansion s

/-- `WR $B000+i, #d` (rule R312): an expansion-chip register, and `EXPANSION_MODEL` is not supplied. -/
def execWrVrc6Saw (_i : BitVec 1) (_d : Byte) (s : State) : Result := refused .unmodelledExpansion s

/-- `WR $B002, #d` (rule R312): an expansion-chip register, and `EXPANSION_MODEL` is not supplied. -/
def execWrVrc6SawTop (_d : Byte) (s : State) : Result := refused .unmodelledExpansion s

/-- `WR $C000, #d` (rule R312): an expansion-chip register, and `EXPANSION_MODEL` is not supplied. -/
def execWrS5bAddress (_d : Byte) (s : State) : Result := refused .unmodelledExpansion s

/-- `WR $E000, #d` (rule R312): an expansion-chip register, and `EXPANSION_MODEL` is not supplied. -/
def execWrS5bData (_d : Byte) (s : State) : Result := refused .unmodelledExpansion s

/-- `WR $F800, #d` (rule R312): an expansion-chip register, and `EXPANSION_MODEL` is not supplied. -/
def execWrN163Address (_d : Byte) (s : State) : Result := refused .unmodelledExpansion s

/-- `RD a`, `a` not `$4015` (rule R314). -/
def execRdOther (_a : Addr) (s : State) : Result := refused .unmodelledRead s

/-- RECORD with channel id 6 to 255 (rule R302). -/
def execRecOther (_id : Byte) (s : State) : Result := refused .unmodelledChannel s

end Sys2Proof.Machine
end

