-- ==== Sys2Proof/Machine/Dispatch.lean ====
section
/-! DEFINITION. One arm per instruction: each calls its meaning. -/

namespace Sys2Proof.Machine

/-- What an instruction does. -/
def exec (i : Instr) (s : State) : Host.Outcome State Fault Refusal :=
  match i with
  | .tick => Sys2Proof.Machine.execTick s
  | .wrPulse1Control d => Sys2Proof.Machine.execWrPulse1Control d s
  | .wrPulse1Sweep d => Sys2Proof.Machine.execWrPulse1Sweep d s
  | .wrPulse1PeriodLow d => Sys2Proof.Machine.execWrPulse1PeriodLow d s
  | .wrPulse1LengthHigh d => Sys2Proof.Machine.execWrPulse1LengthHigh d s
  | .wrPulse2Control d => Sys2Proof.Machine.execWrPulse2Control d s
  | .wrPulse2Sweep d => Sys2Proof.Machine.execWrPulse2Sweep d s
  | .wrPulse2PeriodLow d => Sys2Proof.Machine.execWrPulse2PeriodLow d s
  | .wrPulse2LengthHigh d => Sys2Proof.Machine.execWrPulse2LengthHigh d s
  | .wrTriLinear d => Sys2Proof.Machine.execWrTriLinear d s
  | .wrUnused4009 d => Sys2Proof.Machine.execWrUnused4009 d s
  | .wrTriPeriodLow d => Sys2Proof.Machine.execWrTriPeriodLow d s
  | .wrTriLengthHigh d => Sys2Proof.Machine.execWrTriLengthHigh d s
  | .wrNoiseControl d => Sys2Proof.Machine.execWrNoiseControl d s
  | .wrUnused400D d => Sys2Proof.Machine.execWrUnused400D d s
  | .wrNoiseMode d => Sys2Proof.Machine.execWrNoiseMode d s
  | .wrNoiseLength d => Sys2Proof.Machine.execWrNoiseLength d s
  | .wrDmcControl d => Sys2Proof.Machine.execWrDmcControl d s
  | .wrDmcLoad d => Sys2Proof.Machine.execWrDmcLoad d s
  | .wrDmcAddress d => Sys2Proof.Machine.execWrDmcAddress d s
  | .wrDmcLength d => Sys2Proof.Machine.execWrDmcLength d s
  | .wrNotApu4014 d => Sys2Proof.Machine.execWrNotApu4014 d s
  | .wrStatus d => Sys2Proof.Machine.execWrStatus d s
  | .wrNotApu4016 d => Sys2Proof.Machine.execWrNotApu4016 d s
  | .wrFrameCounter d => Sys2Proof.Machine.execWrFrameCounter d s
  | .wrFdsWaveRam k d => Sys2Proof.Machine.execWrFdsWaveRam k d s
  | .wrFdsVolumeEnv d => Sys2Proof.Machine.execWrFdsVolumeEnv d s
  | .wrFdsUnused4081 d => Sys2Proof.Machine.execWrFdsUnused4081 d s
  | .wrFdsWaveFreqLow d => Sys2Proof.Machine.execWrFdsWaveFreqLow d s
  | .wrFdsWaveFreqHigh d => Sys2Proof.Machine.execWrFdsWaveFreqHigh d s
  | .wrFdsModEnv d => Sys2Proof.Machine.execWrFdsModEnv d s
  | .wrFdsModPosition d => Sys2Proof.Machine.execWrFdsModPosition d s
  | .wrFdsModFreqLow d => Sys2Proof.Machine.execWrFdsModFreqLow d s
  | .wrFdsModFreqHigh d => Sys2Proof.Machine.execWrFdsModFreqHigh d s
  | .wrFdsModTable d => Sys2Proof.Machine.execWrFdsModTable d s
  | .wrFdsWaveConfig d => Sys2Proof.Machine.execWrFdsWaveConfig d s
  | .wrFdsMasterSpeed d => Sys2Proof.Machine.execWrFdsMasterSpeed d s
  | .wrN163Data d => Sys2Proof.Machine.execWrN163Data d s
  | .wrMmc5Low k d => Sys2Proof.Machine.execWrMmc5Low k d s
  | .wrMmc5Mid k d => Sys2Proof.Machine.execWrMmc5Mid k d s
  | .wrMmc5High k d => Sys2Proof.Machine.execWrMmc5High k d s
  | .wrVrc6Pulse1 k d => Sys2Proof.Machine.execWrVrc6Pulse1 k d s
  | .wrVrc7Address d => Sys2Proof.Machine.execWrVrc7Address d s
  | .wrVrc7Data d => Sys2Proof.Machine.execWrVrc7Data d s
  | .wrVrc6Pulse2 k d => Sys2Proof.Machine.execWrVrc6Pulse2 k d s
  | .wrVrc6Pulse2Top d => Sys2Proof.Machine.execWrVrc6Pulse2Top d s
  | .wrVrc6Saw k d => Sys2Proof.Machine.execWrVrc6Saw k d s
  | .wrVrc6SawTop d => Sys2Proof.Machine.execWrVrc6SawTop d s
  | .wrS5bAddress d => Sys2Proof.Machine.execWrS5bAddress d s
  | .wrS5bData d => Sys2Proof.Machine.execWrS5bData d s
  | .wrN163Address d => Sys2Proof.Machine.execWrN163Address d s
  | .wrOther a d => Sys2Proof.Machine.execWrOther a d s
  | .rdStatus => Sys2Proof.Machine.execRdStatus s
  | .rdOther a => Sys2Proof.Machine.execRdOther a s
  | .recP1 => Sys2Proof.Machine.execRecP1 s
  | .recP2 => Sys2Proof.Machine.execRecP2 s
  | .recTri => Sys2Proof.Machine.execRecTri s
  | .recNoi => Sys2Proof.Machine.execRecNoi s
  | .recDmc => Sys2Proof.Machine.execRecDmc s
  | .recFds => Sys2Proof.Machine.execRecFds s
  | .recOther id => Sys2Proof.Machine.execRecOther id s
  | .mnop => Sys2Proof.Machine.execMnop s
  | .madd1 => Sys2Proof.Machine.execMadd1 s
  | .madd2 => Sys2Proof.Machine.execMadd2 s
  | .madd4 => Sys2Proof.Machine.execMadd4 s
  | .mrst => Sys2Proof.Machine.execMrst s
  | .msub4 => Sys2Proof.Machine.execMsub4 s
  | .msub2 => Sys2Proof.Machine.execMsub2 s
  | .msub1 => Sys2Proof.Machine.execMsub1 s

end Sys2Proof.Machine
end

