-- ==== Sys2Proof/Machine/Step.lean ====
section
/-! DEFINITION. One step: the next operation of the host's sequence is taken and applied (rules R17 and R208). -/

namespace Sys2Proof.Machine

/-- One step. After a fault the operation leaves the device as it is (rule R902); an ill-formed word is refused
(rules R301 and R903); any other word runs the instruction it decodes to. -/
def step (s : State) : Host.Outcome State Fault Refusal :=
  match nextOperation s with
  | none => .refused .noPendingOperation
  | some (w, t) =>
    if stuck t then .next t
    else
      match decodeWord w with
      | .ok i => exec i t
      | .error c => .next (refuse c t)

/-- The state with one modulation command placed where the next TICK's modulator fetches it: the modulator runs, one
below a table-entry boundary, and the next operation is a TICK (rule R455). DESIGN CHOICE (log entry 17). -/
def State.withCommand (s : State) (c : Byte) : State :=
  let m := { s.fds.mod with halt := false, phase := 0x00FFFF#22, frequency := 1#12 }
  { s with fds := { s.fds with mod := setModEntry m (modCommandIndex s.params.modTableIndex m) c },
           host := { s.host with ops := tickWord :: s.host.ops } }

/-- The state with an instruction of the opcode table placed where the next step fetches it: an operation word at the
head of the host's sequence, or a modulation command at the entry the next TICK's modulator executes. -/
def State.withFetchWord (s : State) (nbits w : Nat) : State :=
  if nbits ≤ 8 then s.withCommand (BitVec.ofNat 8 w)
  else { s with host := { s.host with ops := BitVec.ofNat 26 w :: s.host.ops } }

end Sys2Proof.Machine
end

