-- ==== Sys2Proof/Machine/Mixer.lean ====
section
/-! DEFINITION. What a host reads of the device between two operations without changing it: the 2A03 mix (rule R780)
and the descriptors of the channels (rules R504 to R510). -/

namespace Sys2Proof.Machine

/-! ### Mixer (rule R780) -/

/-- The pulse part of the mix. -/
def mixPulse (p : Rat) : Rat := if p = 0 then 0 else (9588 / 100) / (8128 / p + 100)

/-- The weighted sum of triangle, noise and DMC. -/
def mixSum (t n dm : Rat) : Rat := t / 8227 + n / 12241 + dm / 22638

/-- The triangle, noise and DMC part of the mix. -/
def mixTnd (v : Rat) : Rat := if v = 0 then 0 else (15979 / 100) / (1 / v + 100)

/-- A channel's level as the mix takes it: 0 when the channel is muted (rule R509). -/
def audible (ch : Channel) (s : State) : Rat := if isMuted ch s then 0 else level ch s

/-- `Mix2A03` (rule R780). -/
def mix2A03 (s : State) : Rat :=
  mixPulse (audible .p1 s + audible .p2 s) + mixTnd (mixSum (audible .tri s) (audible .noi s) (audible .dmc s))

/-- The stream the block exposes: the 2A03 mix with the FDS level, combined by `MIX_FDS`, a free value (rule R780). -/
def mixOutput (s : State) : Rat := Config.mixFds (mix2A03 s) (audible .fds s)

/-! ### Descriptors (rules R504 to R510) -/

/-- The playback-rate descriptor (rule R504), in Hz. -/
inductive Rate where
  | fundamentalFrequency (hz : Rat)
  | lfsrRate (hz : Rat)
  | sampleRate (hz : Rat)
  deriving DecidableEq, Repr

/-- `rate(ch)` (rule R504). -/
def rate (ch : Channel) (s : State) : Rate :=
  match ch with
  | .p1 => .fundamentalFrequency (Config.cpuClockHz / (16 * (s.apu.pulse1.period.toNat + 1)))
  | .p2 => .fundamentalFrequency (Config.cpuClockHz / (16 * (s.apu.pulse2.period.toNat + 1)))
  | .tri => .fundamentalFrequency (Config.cpuClockHz / (32 * (s.apu.tri.period.toNat + 1)))
  | .noi => .lfsrRate (Config.cpuClockHz / noisePeriod s.apu.noise.periodIndex)
  | .dmc => .sampleRate (Config.cpuClockHz / dmcRate s.apu.dmc.rateIndex)
  | .fds => .fundamentalFrequency (Config.cpuClockHz * s.fds.wave.tickFreq / 2 ^ 22)

/-- The timbre descriptor (rule R505). -/
inductive Timbre where
  | duty (index : BitVec 2)
  | lfsrMode (mode : Bool)
  | none
  deriving DecidableEq, Repr

/-- `timbre(ch)` (rule R505). -/
def timbre (ch : Channel) (s : State) : Timbre :=
  match ch with
  | .p1 => .duty s.apu.pulse1.duty
  | .p2 => .duty s.apu.pulse2.duty
  | .noi => .lfsrMode s.apu.noise.mode
  | .tri | .dmc | .fds => .none

/-- `amplitude(ch)` (rule R506). -/
def amplitude (ch : Channel) (s : State) : Rat :=
  match ch with
  | .p1 => (envVolume s.apu.pulse1.constVol s.apu.pulse1.vol s.apu.pulse1.env : Rat) / 15
  | .p2 => (envVolume s.apu.pulse2.constVol s.apu.pulse2.vol s.apu.pulse2.env : Rat) / 15
  | .noi => (envVolume s.apu.noise.constVol s.apu.noise.vol s.apu.noise.env : Rat) / 15
  | .tri => if triRuns s.apu.tri then 1 else 0
  | .dmc => (s.apu.dmc.level.toNat : Rat) / 127
  | .fds => (cappedVolume s.fds.volEnv : Rat) / 32

/-- `chip(ch)` (rule R508). -/
def chip : Channel → String
  | .p1 | .p2 | .tri | .noi | .dmc => "2A03"
  | .fds => "FDS"

/-- `name(ch)` (rule R508). -/
def name : Channel → String
  | .p1 => "Pulse 1"
  | .p2 => "Pulse 2"
  | .tri => "Triangle"
  | .noi => "Noise"
  | .dmc => "DPCM"
  | .fds => "FDS"

/-- A pulse channel would be heard (rule R510). -/
def pulsePlaying (first : Bool) (p : Pulse) : Bool :=
  lengthActive p.length && !sweepMuted first p && decide (0 < envVolume p.constVol p.vol p.env)

/-- `playing(ch)` (rule R510). -/
def playing (ch : Channel) (s : State) : Bool :=
  !isMuted ch s &&
  match ch with
  | .p1 => pulsePlaying true s.apu.pulse1
  | .p2 => pulsePlaying false s.apu.pulse2
  | .noi => lengthActive s.apu.noise.length &&
      decide (0 < envVolume s.apu.noise.constVol s.apu.noise.vol s.apu.noise.env)
  | .tri => triRuns s.apu.tri
  | .dmc => dmcActive s.apu.dmc || decide (s.apu.dmc.level ≠ 0)
  | .fds => !s.fds.wave.halt && decide (0 < cappedVolume s.fds.volEnv)

end Sys2Proof.Machine
end

