-- ==== Sys2Proof/Machine/Driver.lean ====
section
/-! DEFINITION. The driver part of the host model of spec/48_host_renderer.md: driver detection, song positions and loop
bookkeeping (rules R810 to R813). Rule R11: the host model is not part of the hardware block (log entry 20). -/

namespace Sys2Proof.Machine

/-! ### Drivers and song positions (rules R810 to R812) -/

/-- The driver families whose position can be read (rule R810). -/
inductive Driver where
  | famiTracker
  | occFamiTracker
  | dnFamiTracker
  deriving DecidableEq, Repr

/-- The ASCII signatures (rule R810): FTDRV, 0CCFT, DN-FT and Dn-FT. -/
def driverSignatures : List (List Byte × Driver) :=
  [([0x46, 0x54, 0x44, 0x52, 0x56], .famiTracker), ([0x30, 0x43, 0x43, 0x46, 0x54], .occFamiTracker),
   ([0x44, 0x4E, 0x2D, 0x46, 0x54], .dnFamiTracker), ([0x44, 0x6E, 0x2D, 0x46, 0x54], .dnFamiTracker)]

/-- A signature stands somewhere in an image. -/
def signatureIn (sig : List Byte) : List Byte → Bool
  | [] => sig.isEmpty
  | b :: rest => sig.isPrefixOf (b :: rest) || signatureIn sig rest

/-- Driver detection (rule R810); where an image holds several signatures, the first in the rule's order
(DESIGN CHOICE, log entry 21). -/
def detectDriver (image : List Byte) : Option Driver :=
  (driverSignatures.find? (fun e => signatureIn e.1 image)).map (fun e => e.2)

/-- The offset of the position bytes in the driver's work RAM (rule R811). -/
def positionOffset (d : Driver) (usesFds : Bool) : Nat :=
  (match d with
    | .famiTracker => 0x211
    | .occFamiTracker => 0x215
    | .dnFamiTracker => 0x215) + (if usesFds then 2 else 0)

/-- The CPU address of the first position byte (rule R811), from the host parameter `WORK_RAM_BASE`. -/
def positionAddress (workRamBase : Addr) (d : Driver) (usesFds : Bool) : Addr :=
  workRamBase + BitVec.ofNat 16 (positionOffset d usesFds)

/-- A song position (rule R812). -/
structure SongPosition where
  ended : Bool
  frame : Byte
  row : Byte
  deriving DecidableEq, Repr

/-- The position read from the four bytes `player_flags, row, frame, engine_flags` (rule R812). -/
def songPosition (playerFlags row frame engineFlags : Byte) : SongPosition :=
  { ended := bit playerFlags 1, frame := frame,
    row := if !bit playerFlags 1 && bit engineFlags 0 then 0 else row }

/-- The song position a host reads from its memory (rule R812): the four consecutive bytes at an address, in the order
`player_flags, row, frame, engine_flags`. -/
def positionAt (a : Addr) (s : State) : SongPosition :=
  songPosition (memAnswer s a) (memAnswer s (a + 1)) (memAnswer s (a + 2)) (memAnswer s (a + 3))

/-! ### Loop bookkeeping (rule R813) -/

/-- The loop detector's memory: where each position was first seen, the previous frame's position, the loop count
and the memoised window. -/
structure LoopState where
  firstSeen : List (SongPosition × Nat)
  prev : Option SongPosition
  count : Nat
  window : Option (Nat × Nat)
  deriving DecidableEq, Repr

/-- No position seen yet. -/
def LoopState.reset : LoopState := { firstSeen := [], prev := none, count := 0, window := none }

/-- The frame at which a position was first seen. -/
def LoopState.first (l : LoopState) (p : SongPosition) : Option Nat := l.firstSeen.lookup p

/-- The song jumped back: the frame byte is below the previous frame's (rule R813). -/
def jumpedBack (prev : Option SongPosition) (p : SongPosition) : Bool :=
  match prev with
  | none => false
  | some q => decide (p.frame.toNat < q.frame.toNat)

/-- The loop window after a jump back to a position first seen at `first` (rule R813): taken once, and only when the
distance is at least 60 frames. -/
def loopWindow (w : Option (Nat × Nat)) (first current : Nat) : Option (Nat × Nat) :=
  match w with
  | some v => some v
  | none => if 60 ≤ current - first then some (first, current - first) else none

/-- Loop bookkeeping, once per Stepping frame (rule R813). -/
def loopUpdate (current : Nat) (p : SongPosition) (l : LoopState) : LoopState :=
  if p.ended then { l with prev := some p }
  else
    match l.first p with
    | some first =>
      if jumpedBack l.prev p then
        { l with prev := some p, count := l.count + 1, window := loopWindow l.window first current }
      else { l with prev := some p }
    | none => { l with prev := some p, firstSeen := (p, current) :: l.firstSeen }

end Sys2Proof.Machine
end

