-- ==== Sys2Proof/Machine/Encoder.lean ====
section
/-! DEFINITION. The encoder part of the host model (rules R804 to R806 and R820): what the renderer pushes, the order in
which it is muxed, and the drain at the end. A packet keeps the presentation slot of what it holds: the number of the
Stepping frame it was generated in. The codec's parameters and the drawing of a video frame are out of scope (rule R10). -/

namespace Sys2Proof.Machine

/-- A visualization video frame: the frame it belongs to, and what it shows, the channels' state read for capture
(rules R209 and R806); its drawing is out of scope (rule R10). -/
structure VideoFrame where
  slot : Nat
  capture : Channels
  deriving DecidableEq, Repr

/-- A raw audio sample, with the frame it was generated in (rule R806). -/
structure AudioSample where
  slot : Nat
  value : Sample
  deriving DecidableEq, Repr

/-- A muxed packet. -/
inductive Packet where
  | audio (samples : List AudioSample)
  | video (frame : VideoFrame)
  deriving DecidableEq, Repr

/-- The encoder: the samples in one of its audio frames less one, the audio and video pushed and not yet encoded (oldest
first), the packets muxed (oldest first), and whether it was started, has been told of the end of the stream and has
written the container trailer. -/
structure Encoder where
  framePred : Nat
  audio : List AudioSample
  video : List VideoFrame
  muxed : List Packet
  started : Bool
  ended : Bool
  trailer : Bool
  deriving DecidableEq, Repr

/-- An encoder that has not been started. -/
def Encoder.reset : Encoder :=
  { framePred := 0, audio := [], video := [], muxed := [], started := false, ended := false, trailer := false }

/-! ### What the encoder holds -/

/-- The samples in one encoder frame; at least one (log entry 20). -/
def Encoder.frameSize (e : Encoder) : Nat := e.framePred + 1

/-- The audio of a packet. -/
def Packet.samples : Packet → List AudioSample
  | .audio samples => samples
  | .video _ => []

/-- The video of a packet. -/
def Packet.frames : Packet → List VideoFrame
  | .audio _ => []
  | .video frame => [frame]

/-- A packet of audio. -/
def Packet.isAudio : Packet → Bool
  | .audio _ => true
  | .video _ => false

/-- The number of audio packets muxed (rule R820). -/
def Encoder.audioPackets (e : Encoder) : Nat := e.muxed.countP Packet.isAudio

/-- The number of video packets muxed (rule R820). -/
def Encoder.videoPackets (e : Encoder) : Nat := e.muxed.countP (fun p => !p.isAudio)

/-- All audio pushed so far, in the order of the stream: what is muxed, then what is buffered. -/
def Encoder.allAudio (e : Encoder) : List AudioSample := e.muxed.flatMap Packet.samples ++ e.audio

/-- All video pushed so far, in the order of the stream: what is muxed, then what is buffered. -/
def Encoder.allVideo (e : Encoder) : List VideoFrame := e.muxed.flatMap Packet.frames ++ e.video

/-! ### The encoder's calls (rule R820) -/

/-- `start_encoding()`. -/
def Encoder.start (framePred : Nat) : Encoder := { Encoder.reset with framePred := framePred, started := true }

/-- `push_video_data`. -/
def Encoder.pushVideo (v : VideoFrame) (e : Encoder) : Encoder := { e with video := e.video ++ [v] }

/-- `push_audio_data`: a batch of raw samples. -/
def Encoder.pushAudio (batch : List AudioSample) (e : Encoder) : Encoder := { e with audio := e.audio ++ batch }

/-- What one turn of the encoder does (rule R820). -/
inductive EncoderAction where
  | muxAudio
  | muxVideo
  | stop
  deriving DecidableEq, Repr

/-- The encoder's next action (rule R820), from its counts. -/
def encoderNext (rawAudio frameSize audioPackets videoPackets : Nat) (videoBuffered : Bool) : EncoderAction :=
  if frameSize ≤ rawAudio ∧ audioPackets ≤ videoPackets then .muxAudio
  else if videoBuffered then .muxVideo
  else .stop

/-- The encoder's next action while stepping (rule R820). -/
def Encoder.next (e : Encoder) : EncoderAction :=
  encoderNext e.audio.length e.frameSize e.audioPackets e.videoPackets (!e.video.isEmpty)

/-- The encoder's next action while it flushes at the end of the stream (rule R805): whatever is buffered, in
presentation order, the audio of a slot before its video; the last audio packet may be short (log entry 20). -/
def Encoder.flushNext (e : Encoder) : EncoderAction :=
  match e.audio, e.video with
  | [], [] => .stop
  | [], _ :: _ => .muxVideo
  | _ :: _, [] => .muxAudio
  | a :: _, v :: _ => if a.slot ≤ v.slot then .muxAudio else .muxVideo

/-- Encoding and muxing one audio packet, of the oldest samples. -/
def Encoder.muxAudio (e : Encoder) : Encoder :=
  { e with audio := e.audio.drop e.frameSize, muxed := e.muxed ++ [.audio (e.audio.take e.frameSize)] }

/-- Encoding and muxing the oldest video frame. -/
def Encoder.muxVideo (e : Encoder) : Encoder :=
  match e.video with
  | [] => e
  | v :: rest => { e with video := rest, muxed := e.muxed ++ [.video v] }

/-- At most `n` turns of the encoder, up to the first that stops, `next` choosing each. -/
def Encoder.turns (next : Encoder → EncoderAction) : Nat → Encoder → Encoder
  | 0, e => e
  | n + 1, e =>
    match next e with
    | .muxAudio => Encoder.turns next n e.muxAudio
    | .muxVideo => Encoder.turns next n e.muxVideo
    | .stop => e

/-- What is buffered; every turn that does not stop makes it less. -/
def Encoder.buffered (e : Encoder) : Nat := e.audio.length + e.video.length

/-- `step_encoding()`: turns until the one that stops draining for this step (rule R820). -/
def Encoder.stepEncoding (e : Encoder) : Encoder := Encoder.turns Encoder.next e.buffered e

/-- `finish_encoding()` (rules R805 and R820): the end of the stream is signalled, what is buffered is flushed in
presentation order, and the container trailer is written. -/
def Encoder.finish (e : Encoder) : Encoder :=
  { Encoder.turns Encoder.flushNext e.buffered { e with ended := true } with trailer := true }

/-! ### The read-only accessors (rule R820) -/

/-- The sizes of muxed packets, the first of them at place `k` of the stream. -/
def packetSizes : Nat → List Packet → List Nat
  | _, [] => []
  | k, p :: rest => Config.packetBytes p.isAudio k :: packetSizes (k + 1) rest

/-- `encoded_size`: the bytes muxed, the codec's choice packet by packet. -/
def Encoder.encodedSize (e : Encoder) : Nat := (packetSizes 0 e.muxed).sum

/-- `encoded_duration`, in frames: the slots whose video has been muxed (log entry 20). -/
def Encoder.encodedDuration (e : Encoder) : Nat := e.videoPackets

end Sys2Proof.Machine
end

