-- ==== Sys2Proof/Machine/Renderer.lean ====
section
/-! DEFINITION. The host model of spec/48_host_renderer.md: whole frames of the device, the render loop and its states,
stop conditions, fade-out and failures. Rule R11: it is not part of the hardware block, so it has its own state, which
holds the device's (DESIGN CHOICE, log entry 20). -/

namespace Sys2Proof.Machine

/-! ### One frame of the device (rule R803) -/

/-- At most `n` steps of the device, one for each operation pending. -/
def runPending : Nat → State → State
  | 0, s => s
  | n + 1, s =>
    match step s with
    | .next t => runPending n t
    | .fault _ => s
    | .refused _ => s

/-- Every operation the host has issued is applied (rules R17 and R208). -/
def drain (s : State) : State := runPending s.host.ops.length s

/-- What happens inside a frame, besides the passing of time: the CPU or the host issues an operation; the CPU writes a
byte of its own memory; the host takes a point of the audio stream, at its output sample rate. Which, and in what order,
is the host's choice for each frame (rules R10 and R803). -/
inductive FrameEvent where
  | operation (w : OpWord)
  | cpuWrite (a : Addr) (v : Byte)
  | takeSample
  deriving DecidableEq, Repr

/-- One frame: a run of TICKs with WRITEs, READs and RECORDs interleaved, of the length the host chooses (rule R803). -/
abbrev FrameRun := List FrameEvent

/-- The length of a frame in TICKs (rule R803). -/
def FrameRun.ticks (f : FrameRun) : Nat := f.count (.operation tickWord)

/-- One operation is issued and applied. -/
def applyOperation (w : OpWord) (s : State) : State := drain (issue [w] s)

/-- The CPU writes a byte of its memory; the device does not (rule R16). -/
def cpuWrite (a : Addr) (v : Byte) (s : State) : State :=
  { s with host := { s.host with memory := s.host.memory.place a.toNat v } }

/-- A point of the stream the block exposes (rule R780), as a raw sample: a free value (log entry 11). -/
def rawSample (s : State) : Sample := Config.audioSample (mixOutput s)

/-- A frame: the device after it, and the audio generated in it, oldest first. -/
def runFrame : FrameRun → State → State × List Sample
  | [], s => (s, [])
  | .operation w :: rest, s => runFrame rest (applyOperation w s)
  | .cpuWrite a v :: rest, s => runFrame rest (cpuWrite a v s)
  | .takeSample :: rest, s => ((runFrame rest s).1, rawSample s :: (runFrame rest s).2)

/-- The Priming frame (rules R802 and R1004): one frame is run and its audio is discarded, the stream's and what RECORD
wrote to the channels' buffers (log entry 20). -/
def primingFrame (f : FrameRun) (s : State) : State := { (runFrame f s).1 with channels := s.channels }

/-- The device at the start of Stepping (rule R1004): power-up and `FDS_INIT_SEQUENCE` with no TICK between its writes;
then the NSF's own init routine, ordinary operations; then the Priming frame. -/
def trackReady (usesFds : Bool) (init : List OpWord) (priming : FrameRun) : State :=
  primingFrame priming (drain (trackStart usesFds init))

/-! ### What a render is asked to do, and how it fails (rules R815, R818 and R819) -/

/-- The stop conditions (rule R815). -/
inductive StopCondition where
  | loops (k : Nat)
  | frames (n : Nat)
  | nsfeDuration
  deriving DecidableEq, Repr

/-- What the host knows of an NSF: its program image, whether it uses the FDS, the operations of its init routine and
the NSFe-declared duration of the track, if it has that metadata, in frames. Its container is out of scope (rule R10). -/
structure Nsf where
  image : List Byte
  usesFds : Bool
  init : List OpWord
  nsfeDuration : Option Nat
  deriving DecidableEq, Repr

/-- What a render is asked to do: the NSF, the stop condition, the fade-out's length, the host parameter `WORK_RAM_BASE`
(rule R13) and the samples of one audio frame of the encoder less one. -/
structure RenderConfig where
  nsf : Nsf
  stop : StopCondition
  fadeoutLength : Nat
  workRamBase : Addr
  audioFramePred : Nat
  deriving DecidableEq, Repr

/-- The driver of the NSF, if it is recognised (rule R810). -/
def RenderConfig.driver (c : RenderConfig) : Option Driver := detectDriver c.nsf.image

/-- The configuration errors (rule R818). -/
inductive ConfigError where
  /-- Stop condition Loops on an NSF whose driver is unrecognised. -/
  | loopDetectionUnsupported
  /-- Stop condition NsfeDuration without that metadata. -/
  | noNsfeDuration
  deriving DecidableEq, Repr

/-- The failures of a render (rules R801, R818 and R819), typed, as they reach the caller. -/
inductive Failure where
  | config (e : ConfigError)
  | fileRead
  | encoderInit
  | encoderWrite
  deriving DecidableEq, Repr

/-- The descriptive message of a failure (rules R801 and R818); but for its content in the first case, the words are the
model's (log entry 20). -/
def Failure.message : Failure → String
  | .config .loopDetectionUnsupported => "loop detection is unsupported: the driver of this NSF is not recognized"
  | .config .noNsfeDuration => "the NSFe duration of this track is not declared"
  | .fileRead => "the input could not be read"
  | .encoderInit => "the encoder could not be initialized"
  | .encoderWrite => "the encoder could not write"

/-- Validation, before Stepping (rule R818). -/
def validate (c : RenderConfig) : Option ConfigError :=
  match c.stop with
  | .loops _ => if c.driver.isSome then none else some .loopDetectionUnsupported
  | .nsfeDuration => if c.nsf.nsfeDuration.isSome then none else some .noNsfeDuration
  | .frames _ => none

/-- The stop condition is reached (rule R815). -/
def stopReached (c : RenderConfig) (current loops : Nat) : Bool :=
  match c.stop with
  | .loops k => decide (k ≤ loops)
  | .frames n => decide (n ≤ current)
  | .nsfeDuration =>
    match c.nsf.nsfeDuration with
    | some n => decide (n ≤ current)
    | none => false

/-! ### Fade-out (rules R815 to R817) -/

/-- One step of the fade-out timer (rules R815 and R816): the step that starts it does not count it down. -/
def fadeStep (trigger : Bool) (length : Nat) : Option Nat → Option Nat
  | none => if trigger then some length else none
  | some n => some (n - 1)

/-- The volume divisor while counting down (rule R817). -/
def fadeDivisor (length n : Nat) : Nat := length / n

/-- A raw sample under the fade-out (rule R817): divided, truncating toward zero. -/
def fadeSample (length n : Nat) (v : Int) : Int := v.tdiv (fadeDivisor length n)

/-- A raw sample of a frame whose fade-out timer, advanced, is `timer` (rules R804 and R817): as it is before the trigger,
divided while counting down, and a free value in the frame in which the timer is 0 (log entry 20). -/
def faded (length : Nat) (timer : Option Nat) (v : Sample) : Sample :=
  match timer with
  | none => v
  | some 0 => Config.fadedOut v
  | some (n + 1) => BitVec.ofInt 16 (fadeSample length (n + 1) v.toInt)

/-! ### The renderer (rules R801 to R806) -/

/-- The renderer's states (rule R801); Error carries the failure that led to it. -/
inductive Phase where
  | idle
  | priming
  | stepping
  | draining
  | done
  | error (f : Failure)
  deriving DecidableEq, Repr

/-- The renderer: its state, the device it drives, the Stepping frames completed (`current_frame`, rules R804 and R820), the
loop detector, the fade-out timer and the encoder. -/
structure Renderer where
  phase : Phase
  device : State
  currentFrame : Nat
  loops : LoopState
  fade : Option Nat
  encoder : Encoder
  deriving DecidableEq, Repr

/-- The renderer before it starts. -/
def Renderer.reset : Renderer :=
  { phase := .idle, device := State.reset, currentFrame := 0, loops := LoopState.reset, fade := none,
    encoder := Encoder.reset }

/-- Leaving Idle (rules R801, R818 and R1004): to Error with the failure when the configuration is not valid, before any
frame is run; else to Priming, with the device at the start of the track and the encoder started. That `start_encoding` is
called here, before the Priming frame, is the model's choice: rule R820 names the call and no place for it (DESIGN CHOICE,
log entry 20). -/
def Renderer.start (c : RenderConfig) (r : Renderer) : Renderer :=
  match r.phase with
  | .idle =>
    match validate c with
    | some e => { r with phase := .error (.config e) }
    | none =>
      { phase := .priming, device := drain (trackStart c.nsf.usesFds c.nsf.init), currentFrame := 0,
        loops := LoopState.reset, fade := none, encoder := Encoder.start c.audioFramePred }
  | .priming | .stepping | .draining | .done | .error _ => r

/-- The song position after a frame, where the driver is recognised (rules R804, R810 and R812). -/
def songPositionOf (c : RenderConfig) (s : State) : Option SongPosition :=
  c.driver.map (fun d => positionAt (positionAddress c.workRamBase d c.nsf.usesFds) s)

/-- The device after the host has read the song position: nothing of the device has changed, and a byte of memory the
host has not fixed may be another at the next read. -/
def afterPositionRead (c : RenderConfig) (s : State) : State := if c.driver.isSome then (draw s).2 else s

/-- The loop detector after a frame with the position read, if the driver is recognised (rule R804). -/
def loopsAfter (current : Nat) (pos : Option SongPosition) (l : LoopState) : LoopState :=
  match pos with
  | none => l
  | some p => loopUpdate current p l

/-- The fade-out is triggered at this frame (rule R815). -/
def fadeTriggered (c : RenderConfig) (current : Nat) (pos : Option SongPosition) (l : LoopState) : Bool :=
  (match pos with
    | none => false
    | some p => p.ended) || stopReached c current l.count

/-- What a Stepping frame pushes to the encoder, both under the frame's own slot, and the encoding step after it
(rules R804, R806 and R820). -/
def encodeFrame (slot : Nat) (capture : Channels) (batch : List Sample) (e : Encoder) : Encoder :=
  ((e.pushVideo { slot := slot, capture := capture }).pushAudio
    (batch.map (fun v => { slot := slot, value := v }))).stepEncoding

/-- One Stepping frame (rule R804): the device is advanced by a frame, the position is read, loops and fade-out are
updated, the video frame and the audio batch are pushed and encoded, and Stepping ends when the timer is 0. -/
def Renderer.stepFrame (c : RenderConfig) (f : FrameRun) (r : Renderer) : Renderer :=
  let run := runFrame f r.device
  let n := r.currentFrame + 1
  let pos := songPositionOf c run.1
  let l := loopsAfter n pos r.loops
  let fade := fadeStep (fadeTriggered c n pos l) c.fadeoutLength r.fade
  { phase := if fade = some 0 then .draining else .stepping, device := afterPositionRead c run.1, currentFrame := n,
    loops := l, fade := fade,
    encoder := encodeFrame n run.1.channels (run.2.map (faded c.fadeoutLength fade)) r.encoder }

/-- One emulated frame (rules R802 and R804): the one frame of Priming, whose audio is discarded, or a Stepping frame. -/
def Renderer.frame (c : RenderConfig) (f : FrameRun) (r : Renderer) : Renderer :=
  match r.phase with
  | .priming => { r with phase := .stepping, device := primingFrame f r.device }
  | .stepping => r.stepFrame c f
  | .idle | .draining | .done | .error _ => r

/-- Draining (rule R805): the encoder finishes. -/
def Renderer.drained (r : Renderer) : Renderer :=
  match r.phase with
  | .draining => { r with phase := .done, encoder := r.encoder.finish }
  | .idle | .priming | .stepping | .done | .error _ => r

/-- A failure (rules R801 and R819): Error from any state, with its cause; an aborted render keeps the first. -/
def Renderer.fail (f : Failure) (r : Renderer) : Renderer :=
  match r.phase with
  | .error _ => r
  | .idle | .priming | .stepping | .draining | .done => { r with phase := .error f }

/-- What drives the renderer. -/
inductive RenderEvent where
  | start
  | frame (f : FrameRun)
  | finish
  | failure (f : Failure)
  deriving DecidableEq, Repr

/-- One transition of the renderer (rule R801). -/
def Renderer.step (c : RenderConfig) (e : RenderEvent) (r : Renderer) : Renderer :=
  match e with
  | .start => r.start c
  | .frame f => r.frame c f
  | .finish => r.drained
  | .failure f => r.fail f

/-- What reaches the caller (rules R801 and R819): nothing yet, the muxed stream, or the failure. -/
def Renderer.outcome (r : Renderer) : Option (Except Failure (List Packet)) :=
  match r.phase with
  | .done => some (.ok r.encoder.muxed)
  | .error f => some (.error f)
  | .idle | .priming | .stepping | .draining => none

end Sys2Proof.Machine
end

