-- ==== Sys2Proof/Safety.lean ====
section
/-! DEFINITION. What a safe run is, in the terms the statements use: the marks of rules R902 and R903, and the
invariant of the device's state. -/

namespace Sys2Proof.Machine

/-! ### The spec's notation for the data byte (rule R14) -/

/-- `d[hi:lo]`, as a number (rule R14). -/
def field (d : Byte) (hi lo : Nat) : Nat := d.toNat / 2 ^ lo % 2 ^ (hi - lo + 1)

/-- `d[i] = 1` (rule R14). -/
def flag (d : Byte) (i : Nat) : Bool := decide (d.toNat / 2 ^ i % 2 = 1)

/-! ### Marks and invariant -/

/-- No operation so far was outside what the spec describes (rules R16, R902 and R903). -/
def State.clean (s : State) : Bool := !s.dev.faulted && !s.dev.refused

/-- Every entry of the modulation table is a command (rule R321). -/
def CommandsLegal (m : FdsMod) : Prop := ∀ i : BitVec 6, (modEntry m i).toNat < 8

/-- Every sample of the wave RAM is inside `WAVE_SAMPLE_MASK` (rules R103 and R401). -/
def SamplesMasked (mask : BitVec 6) (w : FdsWave) : Prop := ∀ i : BitVec 6, waveEntry w i &&& mask = waveEntry w i

/-- The wave frequency is one a WRITE can produce: below `0x1000` (rules R13 and R404, D8). -/
def FrequencyReachable (w : FdsWave) : Prop := w.frequency.toNat < 0x1000

/-- The memory reader stays in `$8000-$FFFF` while bytes remain (rules R200 and R716), and the bit count of the output
unit is 1 to 8 between operations (rules R113 and R707). -/
def DmcSane (m : Dmc) : Prop :=
  (m.bytesRem ≠ 0 → 0x8000 ≤ m.curAddr.toNat) ∧ 1 ≤ m.bitsRem.toNat ∧ m.bitsRem.toNat ≤ 8

/-- The LFSR is not 0 (rule R657). -/
def LfsrAlive (n : Noise) : Prop := n.lfsr ≠ 0

/-- The sample and edge buffers have one length, and the cursor is inside them (rule R501). -/
def RingSane (b : ChannelBuf) : Prop := b.edges.length = b.samples.length ∧ b.cursor < b.samples.length

/-- The invariant of the device: what every operation keeps. -/
structure Inv (s : State) : Prop where
  commands : CommandsLegal s.fds.mod
  samples : SamplesMasked s.params.waveSampleMask s.fds.wave
  frequency : FrequencyReachable s.fds.wave
  dmc : DmcSane s.apu.dmc
  lfsr : LfsrAlive s.apu.noise
  rings : ∀ ch, RingSane (s.channels.get ch)
  memory : s.host.memory.wf = true
  running : s.dev.faulted = false

end Sys2Proof.Machine
end

