-- ==== Sys2Proof/Certificates/Slice0/Obligations.lean ====
section
/-! DEFINITION. The statements about the device, for the provers. `field d hi lo` and `flag d i` are the spec's
`d[hi:lo]` and `d[i]` (rule R14), read as numbers. A state written as `{ s with … }` is the frame: every part not named
is the one `s` had. -/

open Sys2Proof Sys2Proof.Machine

/-! ### Vocabulary of the statements -/

/-- What a refused operation leaves (rule R903): the mark, and the condition told to the host (the record of what the host
is told is the model's own, log entry 19). -/
def Sys2Proof.Machine.State.refusedWith (s : State) (c : Condition) : State :=
  { s with dev := { s.dev with refused := true },
           host := { s.host with events := .condition c :: s.host.events } }

/-- The state with the head of the host's sequence taken. -/
def Sys2Proof.Machine.State.tookOperation (s : State) (rest : List OpWord) : State :=
  { s with host := { s.host with ops := rest, index := s.host.index + 1 } }

/-- An instruction runs and changes pulse 1 only, into `p`. -/
def Sys2Proof.Machine.GivesPulse1 (i : Instr) (s : State) (p : Pulse) : Prop :=
  exec i s = .next { s with apu := { s.apu with pulse1 := p } }

/-- An instruction runs and changes pulse 2 only, into `p`. -/
def Sys2Proof.Machine.GivesPulse2 (i : Instr) (s : State) (p : Pulse) : Prop :=
  exec i s = .next { s with apu := { s.apu with pulse2 := p } }

/-- An instruction runs and changes the triangle only, into `x`. -/
def Sys2Proof.Machine.GivesTri (i : Instr) (s : State) (x : Triangle) : Prop :=
  exec i s = .next { s with apu := { s.apu with tri := x } }

/-- An instruction runs and changes the noise channel only, into `x`. -/
def Sys2Proof.Machine.GivesNoise (i : Instr) (s : State) (x : Noise) : Prop :=
  exec i s = .next { s with apu := { s.apu with noise := x } }

/-- An instruction runs and changes the DMC only, into `x`. -/
def Sys2Proof.Machine.GivesDmc (i : Instr) (s : State) (x : Dmc) : Prop :=
  exec i s = .next { s with apu := { s.apu with dmc := x } }

/-- An instruction runs and changes the FDS wave unit only, into `x`. -/
def Sys2Proof.Machine.GivesWave (i : Instr) (s : State) (x : FdsWave) : Prop :=
  exec i s = .next { s with fds := { s.fds with wave := x } }

/-- An instruction runs and changes the FDS modulator only, into `x`. -/
def Sys2Proof.Machine.GivesMod (i : Instr) (s : State) (x : FdsMod) : Prop :=
  exec i s = .next { s with fds := { s.fds with mod := x } }

/-- The fade-out timer `k` frames after the frame that triggered it; `trigger j` says whether the trigger of rule R815
holds at the `j`-th of those frames too. -/
def Sys2Proof.Machine.fadeAfter (trigger : Nat → Bool) (length : Nat) : Nat → Option Nat
  | 0 => fadeStep true length none
  | k + 1 => fadeStep (trigger k) length (fadeAfter trigger length k)

/-- The presentation slots of what a renderer has pushed (rule R806): one video frame for every Stepping frame, in order,
and audio of those frames only, never before that of an earlier one. -/
def Sys2Proof.Machine.SlotsInOrder (r : Renderer) : Prop :=
  r.encoder.allVideo.map (fun v => v.slot) = List.range' 1 r.currentFrame ∧
  (r.encoder.allAudio.map (fun v => v.slot)).Pairwise (fun i j => i ≤ j) ∧
  ∀ v ∈ r.encoder.allAudio, 1 ≤ v.slot ∧ v.slot ≤ r.currentFrame

/-! ### Encoding -/

/-- Decoding an encoded instruction gives it back, for every well-formed instruction and every operand. -/
def Obligations.DecodeOfEncodeIsTheInstruction : Prop :=
  ∀ i : Instr, i.wf = true → decode (encode i) = .ok i

/-- The other direction: a code that decodes to an instruction is that instruction's one encoding, and the
instruction is well-formed. -/
def Obligations.EveryCodeHasOneMeaning : Prop :=
  ∀ (c : Code) (i : Instr), decode c = .ok i → i.wf = true ∧ encode i = c

/-- Rule R301 and the decode check of rule R904: a step on a word whose must-be-zero field is nonzero marks the
refusal and changes nothing else of the device; every other word decodes, with `a` and `d` taken unsigned. That the
refusal is a next state (log entry 1), that the word is taken from a sequence in State and counted (log entry 3), and
that the condition is an event (log entry 19) are the model's choices. -/
def Obligations.IllFormedWordsAndNoOthersAreRefusedAtDecode : Prop :=
  ∀ (s : State) (w : OpWord) (rest : List OpWord), s.host.ops = w :: rest → s.dev.faulted = false →
    let k := w.toNat / 2 ^ 24
    let a := w.toNat / 2 ^ 8 % 2 ^ 16
    let d := w.toNat % 2 ^ 8
    if (k = 0 ∧ (a ≠ 0 ∨ d ≠ 0)) ∨ (k = 2 ∧ d ≠ 0) ∨ (k = 3 ∧ a ≠ 0) then
      step s = .next ((s.tookOperation rest).refusedWith .illFormedWord)
    else
      (k = 0 ∧ decodeWord w = .ok .tick) ∨
      (k = 1 ∧ decodeWord w = .ok (decodeWrite (BitVec.ofNat 16 a) (BitVec.ofNat 8 d))) ∨
      (k = 2 ∧ decodeWord w = .ok (decodeRead (BitVec.ofNat 16 a))) ∨
      (k = 3 ∧ decodeWord w = .ok (decodeRecord (BitVec.ofNat 8 d)))

/-- Rule R324: the spec's own example words decode to what it says they are; and one word written out from the
opcode table for each further family. -/
def Obligations.SpecExampleWordsDecode : Prop :=
  decodeWord 0x0000000#26 = .ok .tick ∧
  decodeWord 0x1408380#26 = .ok (.wrFdsWaveFreqHigh 0x80#8) ∧
  decodeWord 0x2401500#26 = .ok .rdStatus ∧
  decodeWord 0x3000005#26 = .ok .recFds ∧
  decodeWord 0x14000FF#26 = .ok (.wrPulse1Control 0xFF#8) ∧
  decodeWord 0x1400BF8#26 = .ok (.wrTriLengthHigh 0xF8#8) ∧
  decodeWord 0x1400E85#26 = .ok (.wrNoiseMode 0x85#8) ∧
  decodeWord 0x140108F#26 = .ok (.wrDmcControl 0x8F#8) ∧
  decodeWord 0x1401510#26 = .ok (.wrStatus 0x10#8) ∧
  decodeWord 0x140452A#26 = .ok (.wrFdsWaveRam 5#6 0x2A#8) ∧
  decodeWord 0x190003F#26 = .ok (.wrVrc6Pulse1 0#2 0x3F#8) ∧
  decodeWord 0x1600000#26 = .ok (.wrOther 0x6000#16 0#8) ∧
  decodeWord 0x2409000#26 = .ok (.rdOther 0x4090#16) ∧
  decodeWord 0x30000FF#26 = .ok (.recOther 0xFF#8) ∧
  decodeCommand 5#8 = .ok .msub4

/-! ### Steps -/

/-- A step takes the head of the host's sequence and runs the instruction it decodes to (rules R17, R100 and R208). That
the sequence stands in State is the model's choice (log entry 3). -/
def Obligations.StepRunsTheDecodedInstruction : Prop :=
  ∀ (s : State) (w : OpWord) (rest : List OpWord) (i : Instr),
    s.host.ops = w :: rest → s.dev.faulted = false → decodeWord w = .ok i →
    step s = exec i (s.tookOperation rest)

/-- Rules R455 and R456: the modulator clock. Halted, it changes nothing; where it crosses no boundary it only adds the
frequency to the phase; where it crosses one it runs the instruction the table entry decodes to, then moves the phase;
and an entry outside `0..7` decodes to no instruction and faults. The entry is the one `MOD_TABLE_INDEX` chooses: at the
position modulo 64, or of the boundary crossed. That one clock crosses at most one boundary is read off the width of the
frequency (log entry 16). -/
def Obligations.ModulatorClockRunsTheDecodedEntry : Prop :=
  ∀ s : State,
    let old := s.fds.mod.phase.toNat
    let new := old + s.fds.mod.frequency.toNat
    (s.params.modTableIndex = .position →
      modCommand s = modEntry s.fds.mod (BitVec.ofNat 6 (s.fds.mod.position.toNat % 64))) ∧
    (s.params.modTableIndex = .boundary → modCommand s = modEntry s.fds.mod (BitVec.ofNat 6 (old / 0x10000))) ∧
    (s.fds.mod.halt = true → modClock s = .next s) ∧
    (s.fds.mod.halt = false → new / 0x10000 = old / 0x10000 →
      modClock s = .next { s with fds := { s.fds with mod := { s.fds.mod with phase := BitVec.ofNat 22 new } } }) ∧
    (s.fds.mod.halt = false → old / 0x10000 < new / 0x10000 →
      new / 0x10000 = old / 0x10000 + 1 ∧
      ((modCommand s).toNat < 8 → ∃ i t, decodeCommand (modCommand s) = .ok i ∧ encode i = .command (modCommand s) ∧
        exec i s = .next t ∧
        modClock s = .next { t with fds := { t.fds with mod := { t.fds.mod with
          phase := BitVec.ofNat 22 new } } }) ∧
      (8 ≤ (modCommand s).toNat → decodeCommand (modCommand s) = .error .badModCommand ∧
        modClock s = .fault .badModCommand))

/-- Rule R902: a table entry outside `0..7` at a boundary sets `dev.faulted` and ends the TICK there, with all that
came before it kept and the wave clock, the output and the cycle count not done; and on a faulted device every
operation leaves the device as it is. That the faulted state is a next state, and that the host's sequence, which is
not the device's, goes on, are the model's choices (log entries 2 and 3). From a device whose table holds commands no step
faults, a consequence of rules R321 and R409 that the spec leaves to be drawn; with the power-up table of rule R1001 the
fault is unreachable from power-up. -/
def Obligations.BadCommandFaultsTheTickAndTheDeviceIsStuck : Prop :=
  (∀ s : State, s.fds.mod.halt = false →
    s.fds.mod.phase.toNat / 0x10000 < (s.fds.mod.phase.toNat + s.fds.mod.frequency.toNat) / 0x10000 →
    8 ≤ (modCommand s).toNat →
    ∃ t, exec .tick s = .next t ∧ t.dev = { s.dev with faulted := true } ∧
      t.apu = (dmcReader { s with apu := apuTick s.dev.cycle s.apu }).apu ∧
      t.fds = fdsEnvelopeStep (fdsLatchStep s.fds) ∧
      t.channels = s.channels ∧ t.params = s.params) ∧
  (∀ (s : State) (w : OpWord) (rest : List OpWord), s.host.ops = w :: rest → s.dev.faulted = true →
    step s = .next (s.tookOperation rest)) ∧
  (∀ s t : State, CommandsLegal s.fds.mod → s.dev.faulted = false → step s = .next t →
    CommandsLegal t.fds.mod ∧ t.dev.faulted = false) ∧
  (CommandsLegal State.reset.fds.mod ∧ State.reset.dev.faulted = false)

/-- Every instruction of the device answers a next state in every state: nothing the host can issue stops it; a
refused or faulted operation is a next state too (log entries 1 and 2). The host's sequence, the memory, the
parameters and the mute flags are as before. -/
def Obligations.EveryInstructionAnswersANextState : Prop :=
  ∀ (i : Instr) (s : State), ∃ t, exec i s = .next t ∧ t.params = s.params ∧ t.host.ops = s.host.ops ∧
    t.host.index = s.host.index ∧ t.host.memory = s.host.memory ∧ ∀ ch, isMuted ch t = isMuted ch s

/-! ### Undecoded and refused operations -/

/-- Rule R311: a WRITE the block does not decode changes nothing and is not refused; and the bits marked `-` in rule
R310 are ignored. -/
def Obligations.UndecodedWritesAndIgnoredBitsHaveNoEffect : Prop :=
  ∀ (a : Addr) (d : Byte) (s : State),
    (exec (.wrUnused4009 d) s = .next s ∧ exec (.wrUnused400D d) s = .next s ∧
      exec (.wrNotApu4014 d) s = .next s ∧ exec (.wrNotApu4016 d) s = .next s ∧
      exec (.wrFdsUnused4081 d) s = .next s ∧ exec (.wrOther a d) s = .next s) ∧
    ((a.toNat ∈ [0x4009, 0x400D, 0x4014, 0x4016, 0x4081] ∨ namedWriteAddress a = false) →
      ∃ i, decodeWord (writeWord a d) = .ok i ∧ exec i s = .next s) ∧
    exec (.wrNoiseControl d) s = exec (.wrNoiseControl (d &&& 0x3F#8)) s ∧
    exec (.wrNoiseMode d) s = exec (.wrNoiseMode (d &&& 0x8F#8)) s ∧
    exec (.wrNoiseLength d) s = exec (.wrNoiseLength (d &&& 0xF8#8)) s ∧
    exec (.wrDmcControl d) s = exec (.wrDmcControl (d &&& 0xCF#8)) s ∧
    exec (.wrDmcLoad d) s = exec (.wrDmcLoad (d &&& 0x7F#8)) s ∧
    exec (.wrStatus d) s = exec (.wrStatus (d &&& 0x1F#8)) s ∧
    exec (.wrFrameCounter d) s = exec (.wrFrameCounter (d &&& 0xC0#8)) s ∧
    exec (.wrFdsWaveFreqHigh d) s = exec (.wrFdsWaveFreqHigh (d &&& 0xCF#8)) s ∧
    exec (.wrFdsModPosition d) s = exec (.wrFdsModPosition (d &&& 0x7F#8)) s ∧
    exec (.wrFdsModFreqHigh d) s = exec (.wrFdsModFreqHigh (d &&& 0x8F#8)) s ∧
    exec (.wrFdsModTable d) s = exec (.wrFdsModTable (d &&& 0x07#8)) s ∧
    exec (.wrFdsWaveConfig d) s = exec (.wrFdsWaveConfig (d &&& 0x83#8)) s

/-- Rules R312 and R903: every WRITE of an expansion-chip register is refused: the mark is set, nothing else of the
device changes; and each of the rule's addresses decodes to such a WRITE. Rule R312 refuses it unless the model is given
`EXPANSION_MODEL`; that it is not given is this model's choice (log entry 8), as are the refusal as a next state (log
entry 1) and the event in `refusedWith` (log entry 19). -/
def Obligations.ExpansionWritesAreRefused : Prop :=
  (∀ (d : Byte) (s : State) (i1 : BitVec 1) (i2 : BitVec 2) (i4 : BitVec 4),
    let r : Result := .next (s.refusedWith .unmodelledExpansion)
    exec (.wrN163Data d) s = r ∧ exec (.wrMmc5Low i4 d) s = r ∧ exec (.wrMmc5Mid i2 d) s = r ∧
    exec (.wrMmc5High i1 d) s = r ∧ exec (.wrVrc6Pulse1 i2 d) s = r ∧ exec (.wrVrc7Address d) s = r ∧
    exec (.wrVrc7Data d) s = r ∧ exec (.wrVrc6Pulse2 i1 d) s = r ∧ exec (.wrVrc6Pulse2Top d) s = r ∧
    exec (.wrVrc6Saw i1 d) s = r ∧ exec (.wrVrc6SawTop d) s = r ∧ exec (.wrS5bAddress d) s = r ∧
    exec (.wrS5bData d) s = r ∧ exec (.wrN163Address d) s = r) ∧
  (∀ (a : Addr) (d : Byte) (s : State),
    (a.toNat = 0x4800 ∨ (0x5000 ≤ a.toNat ∧ a.toNat ≤ 0x5015) ∨ (0x9000 ≤ a.toNat ∧ a.toNat ≤ 0x9003) ∨
      a.toNat = 0x9010 ∨ a.toNat = 0x9030 ∨ (0xA000 ≤ a.toNat ∧ a.toNat ≤ 0xA002) ∨
      (0xB000 ≤ a.toNat ∧ a.toNat ≤ 0xB002) ∨ a.toNat = 0xC000 ∨ a.toNat = 0xE000 ∨ a.toNat = 0xF800) →
    ∃ i, decodeWord (writeWord a d) = .ok i ∧ exec i s = .next (s.refusedWith .unmodelledExpansion))

/-- Rules R302 and R314: a READ of any address but `$4015` and a RECORD of a channel id 6 to 255 decode to the refused
forms, which mark the refusal and change nothing else of the device; the ids 0 to 5 name the six channels. The refusal as
a next state and the event in `refusedWith` are the model's choices (log entries 1 and 19). -/
def Obligations.OtherReadsAndRecordsAreRefused : Prop :=
  (∀ (a : Addr) (s : State), exec (.rdOther a) s = .next (s.refusedWith .unmodelledRead)) ∧
  (∀ (id : Byte) (s : State), exec (.recOther id) s = .next (s.refusedWith .unmodelledChannel)) ∧
  (∀ a : Addr, a.toNat ≠ 0x4015 → decodeWord (readWord a) = .ok (.rdOther a)) ∧
  (∀ id : Byte, 6 ≤ id.toNat → decodeWord (recordWord id) = .ok (.recOther id)) ∧
  decodeWord (recordWord 0#8) = .ok .recP1 ∧ decodeWord (recordWord 1#8) = .ok .recP2 ∧
  decodeWord (recordWord 2#8) = .ok .recTri ∧ decodeWord (recordWord 3#8) = .ok .recNoi ∧
  decodeWord (recordWord 4#8) = .ok .recDmc ∧ decodeWord (recordWord 5#8) = .ok .recFds

/-- Rules R903 and R1003: neither mark is ever cleared by a step. -/
def Obligations.MarksAreNeverCleared : Prop :=
  ∀ s t : State, step s = .next t →
    (s.dev.faulted = true → t.dev.faulted = true) ∧ (s.dev.refused = true → t.dev.refused = true)

/-! ### Pulse channels -/

/-- Rule R551, the control register, both channels. -/
def Obligations.PulseControlWrite : Prop :=
  ∀ (d : Byte) (s : State),
    (∃ q, GivesPulse1 (.wrPulse1Control d) s q ∧ q.duty.toNat = field d 7 6 ∧ q.halt = flag d 5 ∧
      q.constVol = flag d 4 ∧ q.vol.toNat = field d 3 0 ∧
      q = { s.apu.pulse1 with duty := q.duty, halt := q.halt, constVol := q.constVol, vol := q.vol }) ∧
    (∃ q, GivesPulse2 (.wrPulse2Control d) s q ∧ q.duty.toNat = field d 7 6 ∧ q.halt = flag d 5 ∧
      q.constVol = flag d 4 ∧ q.vol.toNat = field d 3 0 ∧
      q = { s.apu.pulse2 with duty := q.duty, halt := q.halt, constVol := q.constVol, vol := q.vol })

/-- Rule R552, the sweep register, both channels. -/
def Obligations.PulseSweepWrite : Prop :=
  ∀ (d : Byte) (s : State),
    (∃ q, GivesPulse1 (.wrPulse1Sweep d) s q ∧ q.sweepEnable = flag d 7 ∧ q.sweepPeriod.toNat = field d 6 4 ∧
      q.sweepNegate = flag d 3 ∧ q.sweepShift.toNat = field d 2 0 ∧
      q = { s.apu.pulse1 with
            sweepEnable := q.sweepEnable, sweepPeriod := q.sweepPeriod,
            sweepNegate := q.sweepNegate, sweepShift := q.sweepShift, sweepReload := true }) ∧
    (∃ q, GivesPulse2 (.wrPulse2Sweep d) s q ∧ q.sweepEnable = flag d 7 ∧ q.sweepPeriod.toNat = field d 6 4 ∧
      q.sweepNegate = flag d 3 ∧ q.sweepShift.toNat = field d 2 0 ∧
      q = { s.apu.pulse2 with
            sweepEnable := q.sweepEnable, sweepPeriod := q.sweepPeriod,
            sweepNegate := q.sweepNegate, sweepShift := q.sweepShift, sweepReload := true })

/-- Rule R553, the period low register, both channels. -/
def Obligations.PulsePeriodLowWrite : Prop :=
  ∀ (d : Byte) (s : State),
    (∃ q, GivesPulse1 (.wrPulse1PeriodLow d) s q ∧
      q.period.toNat = s.apu.pulse1.period.toNat / 256 * 256 + d.toNat ∧
      q = { s.apu.pulse1 with period := q.period }) ∧
    (∃ q, GivesPulse2 (.wrPulse2PeriodLow d) s q ∧
      q.period.toNat = s.apu.pulse2.period.toNat / 256 * 256 + d.toNat ∧
      q = { s.apu.pulse2 with period := q.period })

/-- Rule R554, the length and period high register, both channels, with the length table of rule R315. -/
def Obligations.PulseLengthHighWrite : Prop :=
  ∀ (d : Byte) (s : State),
    (∃ q, GivesPulse1 (.wrPulse1LengthHigh d) s q ∧
      q.period.toNat = s.apu.pulse1.period.toNat % 256 + 256 * field d 2 0 ∧
      q.length = (if s.apu.pulse1.enabled then lengthTable.getD (field d 7 3) 0 else s.apu.pulse1.length) ∧
      q = { s.apu.pulse1 with
            period := q.period, length := q.length, seq := 0,
            env := { s.apu.pulse1.env with start := true } }) ∧
    (∃ q, GivesPulse2 (.wrPulse2LengthHigh d) s q ∧
      q.period.toNat = s.apu.pulse2.period.toNat % 256 + 256 * field d 2 0 ∧
      q.length = (if s.apu.pulse2.enabled then lengthTable.getD (field d 7 3) 0 else s.apu.pulse2.length) ∧
      q = { s.apu.pulse2 with
            period := q.period, length := q.length, seq := 0,
            env := { s.apu.pulse2.env with start := true } })

/-- Rule R556: the APU cycle that finds the timer at 0 steps the sequencer back by one and reloads the timer, and the
`period` further ones only count it down to 0, so the sequencer steps once in `period + 1` APU cycles; a cycle that finds
the timer elsewhere only counts it down; nothing else of the channel changes. -/
def Obligations.PulseSequencerPeriod : Prop :=
  (∀ (p : Pulse) (k : Nat), p.timer = 0 → k ≤ p.period.toNat →
    pulseTimer^[k + 1] p = { p with timer := BitVec.ofNat 11 (p.period.toNat - k), seq := p.seq - 1 }) ∧
  (∀ p : Pulse, p.timer ≠ 0 → pulseTimer p = { p with timer := p.timer - 1 })

/-- Rule R557: after a start, with the divider period `vol + 1`, the decay level is `15 - k` after `k * (vol + 1)` further
quarter frames, down to 0, where it stays with `halt` clear and from which it goes to 15 again with `halt` set. -/
def Obligations.EnvelopeDecaysOnePerDividerPeriod : Prop :=
  ∀ (vol : BitVec 4) (e : Envelope) (k : Nat), e.start = true →
    ((envQuarter vol false)^[1 + k * (vol.toNat + 1)] e).decay.toNat = 15 - k ∧
    ((envQuarter vol true)^[1 + k * (vol.toNat + 1)] e).decay.toNat = 15 - k % 16

/-- Rules R558 and R559: the sweep target, when it is `-1`, that in negate mode it never exceeds `0x7FF`, and the
muting test. -/
def Obligations.SweepTargetAndMuting : Prop :=
  ∀ (first : Bool) (p : Pulse),
    let change := p.period.toNat / 2 ^ p.sweepShift.toNat
    sweepTarget first p =
      (if p.sweepNegate then (p.period.toNat : Int) - change - (if first then 1 else 0)
        else (p.period.toNat : Int) + change) ∧
    (sweepTarget first p = -1 ↔ first = true ∧ p.sweepNegate = true ∧ change = p.period.toNat) ∧
    (p.sweepNegate = true → sweepTarget first p ≤ 0x7FF) ∧
    (sweepMuted first p = true ↔ p.period.toNat < 8 ∨ 0x7FF < sweepTarget first p)

/-- Rule R561: the sweep at a half frame; a fired sweep puts the target into the period without wrapping, since the
target then lies in `0 .. 0x7FF`. -/
def Obligations.SweepHalfFrame : Prop :=
  ∀ (first : Bool) (p : Pulse),
    (sweepHalf first p = { p with period := (sweepHalf first p).period, sweepDiv := (sweepHalf first p).sweepDiv,
                                  sweepReload := (sweepHalf first p).sweepReload }) ∧
    ((p.sweepDiv = 0 ∧ p.sweepEnable = true ∧ p.sweepShift ≠ 0 ∧ sweepMuted first p = false) →
      ((sweepHalf first p).period.toNat : Int) = sweepTarget first p) ∧
    (¬(p.sweepDiv = 0 ∧ p.sweepEnable = true ∧ p.sweepShift ≠ 0 ∧ sweepMuted first p = false) →
      (sweepHalf first p).period = p.period) ∧
    ((p.sweepDiv = 0 ∨ p.sweepReload = true) →
      (sweepHalf first p).sweepDiv = p.sweepPeriod ∧ (sweepHalf first p).sweepReload = false) ∧
    (¬(p.sweepDiv = 0 ∨ p.sweepReload = true) →
      (sweepHalf first p).sweepDiv.toNat + 1 = p.sweepDiv.toNat ∧ (sweepHalf first p).sweepReload = false)

/-! ### Triangle and noise -/

/-- Rules R601, R602 and R603: the triangle's registers. -/
def Obligations.TriangleWrites : Prop :=
  ∀ (d : Byte) (s : State),
    (∃ q, GivesTri (.wrTriLinear d) s q ∧ q.control = flag d 7 ∧ q.linearReloadValue.toNat = field d 6 0 ∧
      q = { s.apu.tri with control := q.control, linearReloadValue := q.linearReloadValue }) ∧
    (∃ q, GivesTri (.wrTriPeriodLow d) s q ∧ q.period.toNat = s.apu.tri.period.toNat / 256 * 256 + d.toNat ∧
      q = { s.apu.tri with period := q.period }) ∧
    (∃ q, GivesTri (.wrTriLengthHigh d) s q ∧
      q.period.toNat = s.apu.tri.period.toNat % 256 + 256 * field d 2 0 ∧
      q.length = (if s.apu.tri.enabled then lengthTable.getD (field d 7 3) 0 else s.apu.tri.length) ∧
      q = { s.apu.tri with period := q.period, length := q.length, linearReload := true })

/-- Rules R605 and R606: the TICK that finds the timer at 0 steps the triangle's sequencer by one when both counters are
nonzero and not at all otherwise, and reloads the timer, and the `period` further ones only count it down to 0; a TICK that
finds the timer elsewhere only counts it down. With the reload flag set and `control` clear the linear counter is loaded
and then runs down to 0 and stays there; with `control` set it is loaded again and again. -/
def Obligations.TriangleSequencerAndLinearCounter : Prop :=
  (∀ (t : Triangle) (k : Nat), t.timer = 0 → k ≤ t.period.toNat →
    triTimer^[k + 1] t =
      { t with timer := BitVec.ofNat 11 (t.period.toNat - k),
               seq := if t.length ≠ 0 ∧ t.linear ≠ 0 then t.seq + 1 else t.seq }) ∧
  (∀ t : Triangle, t.timer ≠ 0 → triTimer t = { t with timer := t.timer - 1 }) ∧
  (∀ (t : Triangle) (k : Nat), t.linearReload = true → t.control = false →
    (linearQuarter^[k + 1] t).linear.toNat = t.linearReloadValue.toNat - k) ∧
  (∀ (t : Triangle) (k : Nat), t.linearReload = true → t.control = true →
    (linearQuarter^[k + 1] t).linear = t.linearReloadValue)

/-- Rules R651, R652 and R653: the noise registers. -/
def Obligations.NoiseWrites : Prop :=
  ∀ (d : Byte) (s : State),
    (∃ q, GivesNoise (.wrNoiseControl d) s q ∧ q.halt = flag d 5 ∧ q.constVol = flag d 4 ∧
      q.vol.toNat = field d 3 0 ∧
      q = { s.apu.noise with halt := q.halt, constVol := q.constVol, vol := q.vol }) ∧
    (∃ q, GivesNoise (.wrNoiseMode d) s q ∧ q.mode = flag d 7 ∧ q.periodIndex.toNat = field d 3 0 ∧
      q = { s.apu.noise with mode := q.mode, periodIndex := q.periodIndex }) ∧
    (∃ q, GivesNoise (.wrNoiseLength d) s q ∧
      q.length = (if s.apu.noise.enabled then lengthTable.getD (field d 7 3) 0 else s.apu.noise.length) ∧
      q = { s.apu.noise with length := q.length, env := { s.apu.noise.env with start := true } })

/-- Rules R656 and R657: the TICK that finds the timer at 0 steps the LFSR and reloads the timer, and the others of its
`NOISE_PERIOD[period_index]` TICKs only count it down to 0; a TICK that finds the timer elsewhere only counts it down; a
step shifts right by one and feeds bit 0 XOR bit 1 (mode 0) or bit 6 (mode 1) in at bit 14; and a nonzero LFSR never
reaches 0. -/
def Obligations.NoiseLfsr : Prop :=
  (∀ (n : Noise) (k : Nat), n.timer = 0 → k < noisePeriodTable.getD n.periodIndex.toNat 0 →
    noiseTimer^[k + 1] n =
      { n with timer := BitVec.ofNat 12 (noisePeriodTable.getD n.periodIndex.toNat 0 - 1 - k),
               lfsr := lfsrStep n.mode n.lfsr }) ∧
  (∀ n : Noise, n.timer ≠ 0 → noiseTimer n = { n with timer := n.timer - 1 }) ∧
  (∀ (mode : Bool) (r : BitVec 15),
    (lfsrStep mode r).toNat =
      r.toNat / 2 + 0x4000 * ((r.toNat + r.toNat / 2 ^ (if mode then 6 else 1)) % 2)) ∧
  (∀ (mode : Bool) (r : BitVec 15), r ≠ 0 → lfsrStep mode r ≠ 0)

/-! ### DMC -/

/-- Rules R701 to R704: the DMC registers; clearing the IRQ enable clears the interrupt flag. -/
def Obligations.DmcWrites : Prop :=
  ∀ (d : Byte) (s : State),
    (∃ q, GivesDmc (.wrDmcControl d) s q ∧ q.irqEnable = flag d 7 ∧ q.loop = flag d 6 ∧
      q.rateIndex.toNat = field d 3 0 ∧ q.irqFlag = (if flag d 7 then s.apu.dmc.irqFlag else false) ∧
      q = { s.apu.dmc with
            irqEnable := q.irqEnable, loop := q.loop, rateIndex := q.rateIndex,
            irqFlag := q.irqFlag }) ∧
    (∃ q, GivesDmc (.wrDmcLoad d) s q ∧ q.level.toNat = field d 6 0 ∧
      q = { s.apu.dmc with level := q.level }) ∧
    GivesDmc (.wrDmcAddress d) s { s.apu.dmc with sampleAddr := d } ∧
    GivesDmc (.wrDmcLength d) s { s.apu.dmc with sampleLen := d }

/-- Rules R706 and R707: an output clock at the TICK that finds the timer at 0, every `DMC_RATE[rate_index]` TICKs; in one,
the level moves by 2 by the low bit of the shift register unless it would leave `0 .. 127` or the unit is silent, the
register shifts, and after the eighth bit a new output cycle begins; the buffered byte, the reader's address and count,
the registers and the interrupt flag are as before. -/
def Obligations.DmcOutputUnit : Prop :=
  (∀ (m : Dmc) (k : Nat), m.timer = 0 → k < dmcRateTable.getD m.rateIndex.toNat 0 →
    dmcTimer^[k + 1] m =
      { dmcOutputClock m with timer := BitVec.ofNat 9 (dmcRateTable.getD m.rateIndex.toNat 0 - 1 - k) }) ∧
  (∀ m : Dmc, m.timer ≠ 0 → dmcTimer m = { m with timer := m.timer - 1 }) ∧
  (∀ m : Dmc,
    dmcOutputClock m = { m with
      level := (dmcOutputClock m).level, shift := (dmcOutputClock m).shift, bitsRem := (dmcOutputClock m).bitsRem,
      silence := (dmcOutputClock m).silence, bufferFull := (dmcOutputClock m).bufferFull } ∧
    (dmcOutputClock m).level.toNat =
      (if m.silence then m.level.toNat
        else if m.shift.toNat % 2 = 1 then (if m.level.toNat ≤ 125 then m.level.toNat + 2 else m.level.toNat)
        else (if 2 ≤ m.level.toNat then m.level.toNat - 2 else m.level.toNat)) ∧
    (m.bitsRem = 1 → (dmcOutputClock m).bitsRem = 8 ∧ (dmcOutputClock m).silence = !m.bufferFull ∧
      (dmcOutputClock m).bufferFull = false ∧
      (m.bufferFull = true → (dmcOutputClock m).shift = m.buffer) ∧
      (m.bufferFull = false → (dmcOutputClock m).shift.toNat = m.shift.toNat / 2)) ∧
    (1 < m.bitsRem.toNat → (dmcOutputClock m).bitsRem.toNat + 1 = m.bitsRem.toNat ∧
      (dmcOutputClock m).silence = m.silence ∧ (dmcOutputClock m).bufferFull = m.bufferFull ∧
      (dmcOutputClock m).shift.toNat = m.shift.toNat / 2))

/-- Rule R708: the address and length of a restart, without wrapping. -/
def Obligations.DmcRestartAddressAndLength : Prop :=
  ∀ m : Dmc, (dmcRestart m).curAddr.toNat = 0xC000 + m.sampleAddr.toNat * 64 ∧
    (dmcRestart m).bytesRem.toNat = m.sampleLen.toNat * 16 + 1 ∧
    dmcRestart m = { m with curAddr := (dmcRestart m).curAddr, bytesRem := (dmcRestart m).bytesRem }

/-- Rules R210 and R716: the memory reader. It fetches exactly when the buffer is empty and bytes remain; the fetch is
one event, of the current address and with the host's answer; the address wraps from `$FFFF` to `$8000`; and at the end
of the sample it restarts if looping, else raises the interrupt flag if enabled. The host's memory and the count of draws
are the model's own fields (log entries 5, 6 and 19). -/
def Obligations.DmcMemoryReader : Prop :=
  ∀ s : State,
    let m := s.apu.dmc
    (¬(m.bufferFull = false ∧ m.bytesRem ≠ 0) → dmcReader s = s) ∧
    ((m.bufferFull = false ∧ m.bytesRem ≠ 0) →
      ∃ (v : Byte) (q : Dmc), dmcReader s =
        { s with apu := { s.apu with dmc := q },
                 host := { s.host with events := .memRead m.curAddr v :: s.host.events,
                                       draws := s.host.draws + 1 } } ∧
      (∀ b, s.host.memory.lookup m.curAddr.toNat = some b → v = b) ∧
      q.buffer = v ∧ q.bufferFull = true ∧
      (m.bytesRem ≠ 1 → q = { m with buffer := v, bufferFull := true, curAddr := q.curAddr,
                                     bytesRem := m.bytesRem - 1 } ∧
        q.curAddr.toNat = (if m.curAddr.toNat = 0xFFFF then 0x8000 else m.curAddr.toNat + 1)) ∧
      (m.bytesRem = 1 → m.loop = true →
        q = dmcRestart { m with buffer := v, bufferFull := true }) ∧
      (m.bytesRem = 1 → m.loop = false →
        q = { m with buffer := v, bufferFull := true, curAddr := q.curAddr, bytesRem := 0,
                     irqFlag := m.irqFlag || m.irqEnable } ∧
        q.curAddr.toNat = (if m.curAddr.toNat = 0xFFFF then 0x8000 else m.curAddr.toNat + 1)))

/-! ### Status register and frame counter -/

/-- Rule R751: the `$4015` WRITE. -/
def Obligations.StatusWrite : Prop :=
  ∀ (d : Byte) (s : State), ∃ m : Dmc,
    exec (.wrStatus d) s = .next { s with apu :=
      { pulse1 := { s.apu.pulse1 with enabled := flag d 0,
                                      length := if flag d 0 then s.apu.pulse1.length else 0 },
        pulse2 := { s.apu.pulse2 with enabled := flag d 1,
                                      length := if flag d 1 then s.apu.pulse2.length else 0 },
        tri := { s.apu.tri with enabled := flag d 2, length := if flag d 2 then s.apu.tri.length else 0 },
        noise := { s.apu.noise with enabled := flag d 3,
                                    length := if flag d 3 then s.apu.noise.length else 0 },
        dmc := m, frame := s.apu.frame } } ∧
    m.irqFlag = false ∧
    (flag d 4 = false → m = { s.apu.dmc with bytesRem := 0, irqFlag := false }) ∧
    (flag d 4 = true → s.apu.dmc.bytesRem ≠ 0 → m = { s.apu.dmc with irqFlag := false }) ∧
    (flag d 4 = true → s.apu.dmc.bytesRem = 0 → m = { dmcRestart s.apu.dmc with irqFlag := false })

/-- Rule R752: the `$4015` READ tells the host one byte, whose bits but bit 5 are the flags, and clears the frame
interrupt flag only. That the byte reaches the host as an event, and that bit 5 is a draw that is counted, are the model's
choices (log entries 19 and 6). -/
def Obligations.StatusRead : Prop :=
  ∀ s : State, ∃ v : Byte,
    exec .rdStatus s = .next { s with
      apu := { s.apu with frame := { s.apu.frame with frameIrq := false } },
      host := { s.host with events := .readReply v :: s.host.events, draws := s.host.draws + 1 } } ∧
    flag v 7 = s.apu.dmc.irqFlag ∧ flag v 6 = s.apu.frame.frameIrq ∧
    (flag v 4 = true ↔ 0 < s.apu.dmc.bytesRem.toNat) ∧ (flag v 3 = true ↔ 0 < s.apu.noise.length.toNat) ∧
    (flag v 2 = true ↔ 0 < s.apu.tri.length.toNat) ∧ (flag v 1 = true ↔ 0 < s.apu.pulse2.length.toNat) ∧
    (flag v 0 = true ↔ 0 < s.apu.pulse1.length.toNat)

/-- Rule R753: the `$4017` WRITE. -/
def Obligations.FrameCounterWrite : Prop :=
  ∀ (d : Byte) (s : State),
    exec (.wrFrameCounter d) s = .next { s with apu := { s.apu with frame := { s.apu.frame with
      mode := flag d 7, irqInhibit := flag d 6, pending := if s.dev.cycle % 2 = 0 then 3 else 4,
      frameIrq := if flag d 6 then false else s.apu.frame.frameIrq } } }

/-- Rules R761, R925 and R1010: the frame counter's timing. With `n + 1` TICKs pending, its next `n` ticks leave
`n + 1 - k` pending and the old count keeps running, modulo the length of the mode's sequence, and the tick after resets
the count. A count at or above the length (a mode change can leave one there) just goes on, the field being 16 bits wide.
From a count of 0 with nothing pending, the count after `k` ticks is `k` until the sequence's length, where it is 0 again:
29830 in 4-step mode and 37282 in 5-step mode. -/
def Obligations.FrameCounterTiming : Prop :=
  (∀ (a : Apu) (n : Nat), a.frame.pending = n + 1 →
    let len := if a.frame.mode then 37282 else 29830
    (∀ k, k ≤ n → (frameTick^[k] a).frame.pending = n + 1 - k ∧ (frameTick^[k] a).frame.mode = a.frame.mode ∧
      (a.frame.count.toNat < len → (frameTick^[k] a).frame.count.toNat = (a.frame.count.toNat + k) % len) ∧
      (len ≤ a.frame.count.toNat → a.frame.count.toNat + k < 0x10000 →
        (frameTick^[k] a).frame.count.toNat = a.frame.count.toNat + k)) ∧
    (frameTick^[n + 1] a).frame.pending = 0 ∧ (frameTick^[n + 1] a).frame.count = 0) ∧
  (∀ (a : Apu) (k : Nat), a.frame.count = 0 → a.frame.pending = 0 →
    let len := if a.frame.mode then 37282 else 29830
    (k < len → (frameTick^[k] a).frame.count.toNat = k) ∧ (frameTick^[len] a).frame.count = 0 ∧
    (frameTick^[len] a).frame.pending = 0 ∧ (frameTick^[len] a).frame.mode = a.frame.mode)

/-- Rules R761, R753 and R1010, what happens at a count: with no reset due, during the delay of a `$4017` WRITE too, a tick
clocks quarter and half frames at the positions of the mode's table and at no others; with a reset due it clocks both in
5-step mode and neither in 4-step mode. The tick counts, and leaves the mode and the inhibit alone. Rules R760, R557,
R605, R562 and R561, what those clocks change: a quarter frame the three envelopes and the linear counter, a half
frame the four length counters, which stop at 0 and stand while halted, and then the two sweeps. -/
def Obligations.QuarterAndHalfFramesFallAtTheRulesPositions : Prop :=
  (∀ a : Apu, a.frame.pending ≠ 1 →
    let n := (a.frame.count.toNat + 1) % 0x10000
    let q := if a.frame.mode then n ∈ [7457, 14913, 22371, 37281] else n ∈ [7457, 14913, 22371, 29829]
    let h := if a.frame.mode then n ∈ [14913, 37281] else n ∈ [14913, 29829]
    let i := a.frame.mode = false ∧ n ∈ [29828, 29829, 29830] ∧ a.frame.irqInhibit = false
    (q → h → frameTick a = { halfFrame (quarterFrame a) with frame := (frameTick a).frame }) ∧
    (q → ¬h → frameTick a = { quarterFrame a with frame := (frameTick a).frame }) ∧
    (¬q → ¬h ∧ frameTick a = { a with frame := (frameTick a).frame }) ∧
    (i → (frameTick a).frame.frameIrq = true) ∧
    (¬i → (frameTick a).frame.frameIrq = a.frame.frameIrq) ∧
    (frameTick a).frame = { a.frame with
      pending := a.frame.pending - 1, count := (frameTick a).frame.count, frameIrq := (frameTick a).frame.frameIrq } ∧
    (frameTick a).frame.count.toNat = (if n = (if a.frame.mode then 37282 else 29830) then 0 else n)) ∧
  (∀ a : Apu, a.frame.pending = 1 →
    (a.frame.mode = true → frameTick a =
      { halfFrame (quarterFrame a) with frame := { a.frame with pending := 0, count := 0 } }) ∧
    (a.frame.mode = false → frameTick a = { a with frame := { a.frame with pending := 0, count := 0 } })) ∧
  (∀ a : Apu, quarterFrame a =
    { a with
      pulse1 := { a.pulse1 with env := envQuarter a.pulse1.vol a.pulse1.halt a.pulse1.env },
      pulse2 := { a.pulse2 with env := envQuarter a.pulse2.vol a.pulse2.halt a.pulse2.env },
      noise := { a.noise with env := envQuarter a.noise.vol a.noise.halt a.noise.env },
      tri := { a.tri with
        linear := if a.tri.linearReload then a.tri.linearReloadValue
          else if a.tri.linear = 0 then 0 else a.tri.linear - 1,
        linearReload := if a.tri.control then a.tri.linearReload else false } }) ∧
  (∀ a : Apu, ∃ l1 l2 lt ln : BitVec 8, halfFrame a =
      { a with
        pulse1 := sweepHalf true { a.pulse1 with length := l1 },
        pulse2 := sweepHalf false { a.pulse2 with length := l2 },
        tri := { a.tri with length := lt }, noise := { a.noise with length := ln } } ∧
    l1.toNat = (if a.pulse1.halt then a.pulse1.length.toNat else a.pulse1.length.toNat - 1) ∧
    l2.toNat = (if a.pulse2.halt then a.pulse2.length.toNat else a.pulse2.length.toNat - 1) ∧
    lt.toNat = (if a.tri.control then a.tri.length.toNat else a.tri.length.toNat - 1) ∧
    ln.toNat = (if a.noise.halt then a.noise.length.toNat else a.noise.length.toNat - 1))

/-! ### FDS register writes -/

/-- Rule R401: the wave RAM WRITE, gated by `write_enable` and masked. -/
def Obligations.WaveRamWrite : Prop :=
  ∀ (i : BitVec 6) (d : Byte) (s : State),
    (s.fds.wave.writeEnable = false → exec (.wrFdsWaveRam i d) s = .next s) ∧
    (s.fds.wave.writeEnable = true → ∃ w, GivesWave (.wrFdsWaveRam i d) s w ∧
      w = { s.fds.wave with table := w.table } ∧
      waveEntry w i = BitVec.ofNat 6 (field d 5 0) &&& s.params.waveSampleMask ∧
      ∀ j, j ≠ i → waveEntry w j = waveEntry s.fds.wave j)

/-- Rules R402 and R405: an envelope configuration WRITE; a disabling one forces the output to the speed. -/
def Obligations.EnvelopeConfigWrites : Prop :=
  ∀ (d : Byte) (s : State), ∃ e m : FdsEnv,
    exec (.wrFdsVolumeEnv d) s = .next { s with fds := { s.fds with volEnv := e } } ∧
    exec (.wrFdsModEnv d) s = .next { s with fds := { s.fds with modEnv := m } } ∧
    e.speed.toNat = field d 5 0 ∧ e.disable = flag d 7 ∧ e.increase = flag d 6 ∧ e.timer = 0 ∧
    (flag d 7 = true → e.output.toNat = field d 5 0) ∧ (flag d 7 = false → e.output = s.fds.volEnv.output) ∧
    m.speed.toNat = field d 5 0 ∧ m.disable = flag d 7 ∧ m.increase = flag d 6 ∧ m.timer = 0 ∧
    (flag d 7 = true → m.output.toNat = field d 5 0) ∧ (flag d 7 = false → m.output = s.fds.modEnv.output)

/-- Rules R403 and R404: the wave frequency and halts; the latch is set by a change of the envelope halt. -/
def Obligations.WaveFrequencyWrites : Prop :=
  ∀ (d : Byte) (s : State),
    (∃ w, GivesWave (.wrFdsWaveFreqLow d) s w ∧
      w.frequency.toNat = s.fds.wave.frequency.toNat / 256 * 256 + d.toNat ∧
      w = { s.fds.wave with frequency := w.frequency }) ∧
    (∃ w, GivesWave (.wrFdsWaveFreqHigh d) s w ∧
      w.frequency.toNat = s.fds.wave.frequency.toNat % 256 + 256 * field d 3 0 ∧
      w = { s.fds.wave with
            frequency := w.frequency, halt := flag d 7, envHalt := flag d 6,
            envHaltLatch := if flag d 6 = s.fds.wave.envHalt then s.fds.wave.envHaltLatch else true,
            phase := if flag d 7 = true ∧ s.params.waveHaltResetsPhase = true then 0 else s.fds.wave.phase })

/-- Rules R406, R407 and R408: the modulator's position, frequency and halt. -/
def Obligations.ModulatorRegisterWrites : Prop :=
  ∀ (d : Byte) (s : State),
    (∃ m, GivesMod (.wrFdsModPosition d) s m ∧ m.position.toNat = field d 6 0 ∧
      m = { s.fds.mod with position := m.position }) ∧
    (∃ m, GivesMod (.wrFdsModFreqLow d) s m ∧
      m.frequency.toNat = s.fds.mod.frequency.toNat / 256 * 256 + d.toNat ∧
      m = { s.fds.mod with frequency := m.frequency }) ∧
    (∃ m, GivesMod (.wrFdsModFreqHigh d) s m ∧
      m.frequency.toNat = s.fds.mod.frequency.toNat % 256 + 256 * field d 3 0 ∧
      m.phase.toNat = (if flag d 7 then s.fds.mod.phase.toNat / 0x10000 * 0x10000 else s.fds.mod.phase.toNat) ∧
      m = { s.fds.mod with frequency := m.frequency, halt := flag d 7, phase := m.phase })

/-- Rules R409 and R1015, under the spec's default of `MOD_TABLE_WRITE_MODEL`: the modulation table WRITE fills two entries
while the modulator is halted, and is ignored while it runs. The parameter is open; that it is the default at reset, and
that another model's write is a free value which stores commands into the table and moves the write position, are the
model's choices (log entry 8): so the last clause says, for every value of the parameter, what the WRITE leaves alone. -/
def Obligations.ModulationTableWrite : Prop :=
  ∀ (d : Byte) (s : State),
    (s.params.modTableWriteModel = .twoEntriesWhileHalted →
      (s.fds.mod.halt = false → exec (.wrFdsModTable d) s = .next s) ∧
      (s.fds.mod.halt = true → ∃ m, GivesMod (.wrFdsModTable d) s m ∧
        m = { s.fds.mod with table := m.table, writePos := m.writePos } ∧
        m.writePos.toNat = (s.fds.mod.writePos.toNat + 2) % 64 ∧
        ∀ j : BitVec 6, (modEntry m j).toNat =
          (if j = s.fds.mod.writePos ∨ j = s.fds.mod.writePos + 1 then field d 2 0
            else (modEntry s.fds.mod j).toNat))) ∧
    (∃ m, GivesMod (.wrFdsModTable d) s m ∧ m = { s.fds.mod with table := m.table, writePos := m.writePos } ∧
      (CommandsLegal s.fds.mod → CommandsLegal m))

/-- Rules R410 and R411: the wave configuration and the master envelope speed. -/
def Obligations.WaveConfigAndMasterSpeedWrites : Prop :=
  ∀ (d : Byte) (s : State),
    (∃ w, GivesWave (.wrFdsWaveConfig d) s w ∧ w.writeEnable = flag d 7 ∧ w.masterVolume.toNat = field d 1 0 ∧
      w = { s.fds.wave with writeEnable := w.writeEnable, masterVolume := w.masterVolume }) ∧
    exec (.wrFdsMasterSpeed d) s = .next { s with fds := { s.fds with masterSpeed := d } }

/-! ### FDS clocks -/

/-- Rules R320 and R456: each modulator command moves the position as the table says, modulo 128, and nothing else. -/
def Obligations.ModulatorCommandsMoveThePosition : Prop :=
  ∀ s : State,
    let p := s.fds.mod.position.toNat
    let gives := fun (i : Instr) (n : Nat) =>
      ∃ m, GivesMod i s m ∧ m = { s.fds.mod with position := m.position } ∧ m.position.toNat = n
    exec .mnop s = .next s ∧ gives .madd1 ((p + 1) % 128) ∧ gives .madd2 ((p + 2) % 128) ∧
    gives .madd4 ((p + 4) % 128) ∧ gives .mrst 0 ∧ gives .msub4 ((p + 124) % 128) ∧
    gives .msub2 ((p + 126) % 128) ∧ gives .msub1 ((p + 127) % 128)

/-- Rules R451 and R471: below its period an envelope's timer only counts; at its period the timer is 0 again and the
output moves by one, toward 32 or toward 0. A clock never takes an output of at most 32 above 32, never raises one above
32. The last clause, that it leaves the timer below the period whatever the timer was, is the model's reading of the loop
of rule R451 (log entry 13). -/
def Obligations.EnvelopeClock : Prop :=
  ∀ (speed : Byte) (e : FdsEnv), speed ≠ 0 →
    let period := (e.speed.toNat + 1) * speed.toNat * 8
    (e.disable = true → envClock speed e = e) ∧
    (e.disable = false → e.timer + 1 < period → envClock speed e = { e with timer := e.timer + 1 }) ∧
    (e.disable = false → e.timer + 1 = period → ∃ o : BitVec 6,
      envClock speed e = { e with timer := 0, output := o } ∧
      o.toNat = (if e.increase then (if e.output.toNat < 32 then e.output.toNat + 1 else e.output.toNat)
        else e.output.toNat - 1)) ∧
    (e.output.toNat ≤ 32 → (envClock speed e).output.toNat ≤ 32) ∧
    (32 < e.output.toNat → (envClock speed e).output.toNat ≤ e.output.toNat) ∧
    (e.disable = false → (envClock speed e).timer < period)

/-- Rule R460: the modulation quantity, step by step, in the spec's own terms: `t` is the normalised product, the one
value in `[-64, 192)` that differs from the rounded product by a multiple of 256. The result lies in `[-f, 3f]`, so the
wave clock's increment is never negative; and a position of 0 gives 0. -/
def Obligations.ModulationQuantity : Prop :=
  ∀ (p : BitVec 7) (g : BitVec 6) (f : BitVec 16),
    (g = 0 → modQ p g f = 0) ∧
    (g ≠ 0 → ∃ s x r t u : Int,
      s = (if p.toNat < 64 then (p.toNat : Int) else (p.toNat : Int) - 128) ∧
      x = s * g.toNat ∧
      r = x.fdiv 16 + (if x.fmod 16 ≠ 0 ∧ ((x.fdiv 16).fdiv 128).fmod 2 = 0 then (if s < 0 then -1 else 2) else 0) ∧
      -64 ≤ t ∧ t < 192 ∧ (∃ k : Int, t = r + 256 * k) ∧
      u = t * f.toNat ∧
      modQ p g f = u.fdiv 64 + (if u.fmod 64 ≥ 32 then 1 else 0)) ∧
    -(f.toNat : Int) ≤ modQ p g f ∧ modQ p g f ≤ 3 * (f.toNat : Int) ∧ 0 ≤ (f.toNat : Int) + modQ p g f ∧
    modQ 0 g f = 0

/-- Rule R461: the wave clock, with the latch cleared whether or not the wave is halted. -/
def Obligations.WaveClock : Prop :=
  ∀ f : Fds,
    let inc := (f.wave.frequency.toNat : Int) + modQ f.mod.position f.modEnv.output f.wave.frequency
    (f.wave.halt = true → waveClock f = { f with wave := { f.wave with envHaltLatch := false } }) ∧
    (f.wave.halt = false → ∃ p : BitVec 22, (p.toNat : Int) = (f.wave.phase.toNat + inc) % 0x400000 ∧
      waveClock f = { f with wave := { f.wave with envHaltLatch := false, phase := p, tickFreq := inc } })

/-- Rules R472 and R473 with their premises (C3 and C4): with the modulator halted, or its table all no-ops, and the
position 0 or the modulation envelope's output 0 and held, a TICK keeps the position and adds exactly the frequency to
the phase of a wave that is not halted. -/
def Obligations.UnmodulatedTickAddsTheFrequency : Prop :=
  ∀ s : State, (s.fds.mod.halt = true ∨ ∀ i, modEntry s.fds.mod i = 0) → s.fds.wave.halt = false →
    (s.fds.mod.position = 0 ∨ (s.fds.modEnv.output = 0 ∧ s.fds.modEnv.disable = true)) →
    ∃ t, exec .tick s = .next t ∧ t.fds.mod.position = s.fds.mod.position ∧
      t.fds.wave.phase.toNat = (s.fds.wave.phase.toNat + s.fds.wave.frequency.toNat) % 0x400000 ∧
      t.fds.wave.tickFreq = s.fds.wave.frequency.toNat

/-- Rules R466 and R520: the output of a TICK. -/
def Obligations.FdsOutput : Prop :=
  ∀ (a1 : Rat) (old : BitVec 6) (f : Fds),
    (f.wave.writeEnable = true → fdsOutput a1 old f = { f with edge := false }) ∧
    (f.wave.writeEnable = false → ∃ l y : Rat,
      l = ((waveEntry f.wave (BitVec.ofNat 6 (f.wave.phase.toNat / 0x10000))).toNat : Rat) *
        (min f.volEnv.output.toNat 32 : Nat) * 2 / (f.wave.masterVolume.toNat + 2) ∧
      y = f.y1 + a1 * (l - f.y1) ∧
      fdsOutput a1 old f = { f with level := l, y1 := y, filtered := y,
                                    edge := decide (f.wave.phase.toNat / 0x10000 < old.toNat) })

/-! ### TICK -/

/-- Rules R770 and R450: a TICK of a device whose modulation table holds commands runs every unit once, in the spec's
order: the frame counter and the timers, the memory reader, the envelopes, the modulator clock, the wave clock and the
output; and counts one cycle. Of these only the modulator clock moves the modulator, and of it only position and phase;
what the TICK tells the host and draws is what the memory reader tells and draws; the channels' buffers, the parameters,
the refusal marks and the host's sequence and memory are as before. -/
def Obligations.TickRunsEveryUnitOnce : Prop :=
  ∀ s : State, CommandsLegal s.fds.mod →
    let a := frameTick s.apu
    let r := dmcReader { s with apu := { a with
      tri := triTimer a.tri,
      pulse1 := if s.dev.cycle % 2 = 0 then pulseTimer a.pulse1 else a.pulse1,
      pulse2 := if s.dev.cycle % 2 = 0 then pulseTimer a.pulse2 else a.pulse2,
      noise := noiseTimer a.noise, dmc := dmcTimer a.dmc } }
    let b := { r with fds := fdsEnvelopeStep (fdsLatchStep s.fds) }
    ∃ u : State, modClock b = .next u ∧
      exec .tick s = .next { u with
        fds := fdsOutput s.params.filterA1 (BitVec.ofNat 6 (s.fds.wave.phase.toNat / 0x10000)) (waveClock u.fds),
        dev := { s.dev with cycle := s.dev.cycle + 1 } } ∧
      u = { b with fds := { b.fds with mod :=
        { s.fds.mod with position := u.fds.mod.position, phase := u.fds.mod.phase } } } ∧
      u.fds.mod.phase.toNat = (if s.fds.mod.halt then s.fds.mod.phase.toNat
        else (s.fds.mod.phase.toNat + s.fds.mod.frequency.toNat) % 0x400000) ∧
      u.host = r.host ∧ u.apu = r.apu ∧ u.channels = s.channels ∧ u.params = s.params ∧ u.host.ops = s.host.ops ∧
      u.host.index = s.host.index ∧ u.host.memory = s.host.memory

/-- Rules R450 and R1013: the first two steps of the FDS tick. The latch zeroes both timers; the envelopes are clocked
only when neither halt is set and the master speed is not 0; the two steps change the two envelopes and nothing else of
the FDS; and after a TICK the latch is clear, so it acts on one TICK only. -/
def Obligations.EnvelopeHaltLatchActsOnOneTick : Prop :=
  (∀ s : State, CommandsLegal s.fds.mod → ∃ t, exec .tick s = .next t ∧ t.fds.wave.envHaltLatch = false ∧
    (s.fds.wave.envHaltLatch = true →
      (s.fds.wave.halt = true ∨ s.fds.wave.envHalt = true ∨ s.fds.masterSpeed = 0) →
      t.fds.volEnv = { s.fds.volEnv with timer := 0 } ∧ t.fds.modEnv = { s.fds.modEnv with timer := 0 }) ∧
    (s.fds.wave.envHaltLatch = false →
      (s.fds.wave.halt = true ∨ s.fds.wave.envHalt = true ∨ s.fds.masterSpeed = 0) →
      t.fds.volEnv = s.fds.volEnv ∧ t.fds.modEnv = s.fds.modEnv) ∧
    (s.fds.wave.halt = false → s.fds.wave.envHalt = false → s.fds.masterSpeed ≠ 0 →
      (s.fds.wave.envHaltLatch = false →
        t.fds.volEnv = envClock s.fds.masterSpeed s.fds.volEnv ∧
        t.fds.modEnv = envClock s.fds.masterSpeed s.fds.modEnv) ∧
      (s.fds.wave.envHaltLatch = true →
        t.fds.volEnv = envClock s.fds.masterSpeed { s.fds.volEnv with timer := 0 } ∧
        t.fds.modEnv = envClock s.fds.masterSpeed { s.fds.modEnv with timer := 0 }))) ∧
  (∀ f : Fds, fdsEnvelopeStep (fdsLatchStep f) =
    { f with volEnv := (fdsEnvelopeStep (fdsLatchStep f)).volEnv, modEnv := (fdsEnvelopeStep (fdsLatchStep f)).modEnv })

/-- Rule R770, "the 2A03 and the FDS share no state": the FDS after a TICK does not depend on the 2A03, nor the 2A03
on the FDS; whether the host's answers are the same is a matter of the host's side only. -/
def Obligations.FdsAndApuDoNotInterfere : Prop :=
  ∀ s t s' t' : State, s.dev = t.dev → exec .tick s = .next s' → exec .tick t = .next t' →
    (s.fds = t.fds → s.params = t.params → s'.fds = t'.fds ∧ s'.dev = t'.dev) ∧
    (s.apu = t.apu → s.host = t.host → s'.apu = t'.apu)

/-! ### RECORD -/

/-- Rules R502, R503 and R507: RECORD of a 2A03 channel with the debug filter off pushes the quantised level with a
clear edge and changes only that channel's buffers. -/
def Obligations.RecordOfAnApuChannel : Prop :=
  ∀ (s : State), s.params.debugHighpass = false →
    let rec_ := fun (i : Instr) (ch : Channel) (l : Rat) =>
      ∃ b : ChannelBuf, exec i s = .next { s with channels := s.channels.set ch b } ∧
        b.muted = (s.channels.get ch).muted ∧
        b.samples = (s.channels.get ch).samples.set (s.channels.get ch).cursor (Config.sampleQuantize l) ∧
        b.edges = (s.channels.get ch).edges.set (s.channels.get ch).cursor false ∧
        b.cursor = ((s.channels.get ch).cursor + 1) % (s.channels.get ch).samples.length
    rec_ .recP1 .p1 (pulseOut true s.apu.pulse1 : Nat) ∧ rec_ .recP2 .p2 (pulseOut false s.apu.pulse2 : Nat) ∧
    rec_ .recTri .tri (triOut s.apu.tri : Nat) ∧ rec_ .recNoi .noi (noiseOut s.apu.noise : Nat) ∧
    rec_ .recDmc .dmc (s.apu.dmc.level.toNat : Nat)

/-- Rules R503 and R521: RECORD of the FDS channel with the debug filter off runs stage 2 of the filter once and pushes
its output with the edge flag. -/
def Obligations.RecordOfTheFdsChannel : Prop :=
  ∀ (s : State), s.params.debugHighpass = false →
    ∃ (y : Rat) (b : ChannelBuf),
      exec .recFds s = .next { s with fds := { s.fds with y2 := y }, channels := { s.channels with fds := b } } ∧
      y = s.fds.y2 + s.params.filterA2 * (s.fds.filtered - s.fds.y2) ∧
      b.muted = s.channels.fds.muted ∧
      b.samples = s.channels.fds.samples.set s.channels.fds.cursor (Config.sampleQuantize y) ∧
      b.edges = s.channels.fds.edges.set s.channels.fds.cursor s.fds.edge ∧
      b.cursor = (s.channels.fds.cursor + 1) % s.channels.fds.samples.length

/-- Rule R523, the debug filter on: RECORD still completes, draws one free value, changes the buffers of its channel
only (and for the FDS the filter stage), and pushes one entry with the same edge. The value pushed is a free value (log
entries 6 and 11). -/
def Obligations.RecordThroughTheDebugFilter : Prop :=
  ∀ (s : State), s.params.debugHighpass = true →
    let rec_ := fun (i : Instr) (ch : Channel) (e : Bool) =>
      ∃ (y : Rat) (v : Sample),
        exec i s = .next { s with
          fds := { s.fds with y2 := y },
          channels := s.channels.set ch ((s.channels.get ch).push v e),
          host := { s.host with draws := s.host.draws + 1 } } ∧
        y = (if ch = .fds then s.fds.y2 + s.params.filterA2 * (s.fds.filtered - s.fds.y2) else s.fds.y2)
    rec_ .recP1 .p1 false ∧ rec_ .recP2 .p2 false ∧ rec_ .recTri .tri false ∧ rec_ .recNoi .noi false ∧
    rec_ .recDmc .dmc false ∧ rec_ .recFds .fds s.fds.edge

/-! ### Whole-machine rules -/

/-- The invariant holds at power-up. -/
def Obligations.InvariantHoldsAtReset : Prop := Inv State.reset

/-- Every step keeps the invariant: legal commands, masked samples, a reachable frequency, the DMC's address window and
bit count, a live LFSR, ring buffers in step, canonical memory, no fault. -/
def Obligations.EveryStepKeepsTheInvariant : Prop :=
  ∀ s t : State, Inv s → step s = .next t → Inv t

/-- Rule R530: the ring buffers are written only by RECORD; any other operation leaves every channel's buffers. -/
def Obligations.OnlyRecordWritesTheRingBuffers : Prop :=
  ∀ (i : Instr) (s t : State), exec i s = .next t →
    i ∉ [Instr.recP1, .recP2, .recTri, .recNoi, .recDmc, .recFds] → t.channels = s.channels

/-- Rule R906: the frame interrupt flag is set only by a TICK in 4-step mode at one of the three counts without inhibit,
and cleared only by a `$4015` READ or a `$4017` WRITE with bit 6 set; the DMC interrupt flag is set only by a TICK that
fetches the last byte of a sample that does not loop, with IRQs enabled (the fetch is an event, log entry 19; one more
event follows it where the TICK then faults, log entry 2), and cleared only by a `$4015` WRITE or a `$4010`
WRITE with bit 7 clear. Rule R905: the IRQ line is the OR of the two flags. -/
def Obligations.InterruptFlagsHaveTheirCausesAndNoOthers : Prop :=
  (∀ a : Apu, irqLine a = true ↔ a.frame.frameIrq = true ∨ a.dmc.irqFlag = true) ∧
  ∀ (i : Instr) (s t : State), exec i s = .next t →
    (s.apu.frame.frameIrq = false → t.apu.frame.frameIrq = true →
      i = .tick ∧ s.apu.frame.mode = false ∧ s.apu.frame.irqInhibit = false ∧
      s.apu.frame.count.toNat + 1 ∈ [29828, 29829, 29830]) ∧
    (s.apu.frame.frameIrq = true → t.apu.frame.frameIrq = false →
      i = .rdStatus ∨ ∃ d, i = .wrFrameCounter d ∧ flag d 6 = true) ∧
    (s.apu.dmc.irqFlag = false → t.apu.dmc.irqFlag = true →
      i = .tick ∧ s.apu.dmc.bytesRem = 1 ∧ s.apu.dmc.loop = false ∧ s.apu.dmc.irqEnable = true ∧
      t.apu.dmc.bytesRem = 0 ∧ t.apu.dmc.bufferFull = true ∧
      ∃ (v : Byte) (later : List Event), (later = [] ∨ later = [.condition .badModCommand]) ∧ t.apu.dmc.buffer = v ∧
        t.host.events = later ++ .memRead s.apu.dmc.curAddr v :: s.host.events) ∧
    (s.apu.dmc.irqFlag = true → t.apu.dmc.irqFlag = false →
      (∃ d, i = .wrStatus d) ∨ ∃ d, i = .wrDmcControl d ∧ flag d 7 = false)

/-- Rules R200 and R716: from a state whose memory reader is in its window, everything an instruction reads of memory lies
in `$8000-$FFFF`. What it reads is what it adds to the events, newest first (log entry 19). -/
def Obligations.DmcReadsOnlyTheUpperHalf : Prop :=
  ∀ (i : Instr) (s t : State), DmcSane s.apu.dmc → exec i s = .next t →
    ∃ new : List Event, t.host.events = new ++ s.host.events ∧
      ∀ (a : Addr) (v : Byte), .memRead a v ∈ new → 0x8000 ≤ a.toNat

/-- Rules R1001 and R110 to R114, R501: the state at power-up, every field of the device 0 or false but the three the
rule names; so the IRQ line is low and no fetch is pending. The last sentence of rule R1001 says that every level is 0;
the level of every channel is 0 here but the triangle's, which is 15. That 15 is the model's choice (log entry 14), since
rule R610 gives `TRI_SEQ[0] = 15` for the sequencer position 0 of rule R111. -/
def Obligations.PowerUpState : Prop :=
  let s := State.reset
  s.dev = { faulted := false, refused := false, cycle := 0 } ∧
  (∀ p ∈ [s.apu.pulse1, s.apu.pulse2], p =
    { duty := 0, halt := false, constVol := false, vol := 0, sweepEnable := false, sweepPeriod := 0,
      sweepNegate := false, sweepShift := 0, sweepReload := false, sweepDiv := 0, period := 0, timer := 0, seq := 0,
      length := 0, enabled := false, env := { start := false, div := 0, decay := 0 } }) ∧
  s.apu.tri =
    { control := false, linearReloadValue := 0, linear := 0, linearReload := false, period := 0, timer := 0,
      seq := 0, length := 0, enabled := false } ∧
  s.apu.noise =
    { halt := false, constVol := false, vol := 0, mode := false, periodIndex := 0, timer := 0, lfsr := 1,
      length := 0, enabled := false, env := { start := false, div := 0, decay := 0 } } ∧
  s.apu.dmc =
    { irqEnable := false, loop := false, rateIndex := 0, level := 0, sampleAddr := 0, sampleLen := 0, curAddr := 0,
      bytesRem := 0, buffer := 0, bufferFull := false, shift := 0, bitsRem := 8, silence := true, timer := 0,
      irqFlag := false } ∧
  s.apu.frame = { mode := false, irqInhibit := false, count := 0, pending := 0, frameIrq := false } ∧
  (∀ i : BitVec 6, waveEntry s.fds.wave i = 0 ∧ modEntry s.fds.mod i = 0) ∧
  (s.fds.wave.frequency = 0 ∧ s.fds.wave.phase = 0 ∧ s.fds.wave.writeEnable = false ∧
    s.fds.wave.masterVolume = 0 ∧ s.fds.wave.halt = false ∧ s.fds.wave.envHalt = false ∧
    s.fds.wave.envHaltLatch = false ∧ s.fds.wave.tickFreq = 0) ∧
  (s.fds.mod.frequency = 0 ∧ s.fds.mod.phase = 0 ∧ s.fds.mod.halt = false ∧ s.fds.mod.position = 0 ∧
    s.fds.mod.writePos = 0) ∧
  (∀ e ∈ [s.fds.volEnv, s.fds.modEnv], e =
    { speed := 0, disable := false, increase := false, timer := 0, output := 0 }) ∧
  (s.fds.masterSpeed = 0 ∧ s.fds.y1 = 0 ∧ s.fds.y2 = 0 ∧ s.fds.level = 0 ∧ s.fds.filtered = 0 ∧
    s.fds.edge = false) ∧
  (∀ ch, (s.channels.get ch).muted = false ∧ (s.channels.get ch).cursor = 0 ∧
    (∀ v ∈ (s.channels.get ch).samples, v = 0) ∧ (∀ e ∈ (s.channels.get ch).edges, e = false) ∧
    level ch s = (if ch = .tri then 15 else 0)) ∧
  irqLine s.apu = false ∧ dmcFetches s.apu.dmc = false

/-! ### Mixer and host model -/

/-- Rules R555, R557 and R560, R604 and R610, R662, R507, R509 and R780: the channels' outputs, the levels and the 2A03 mix
by the spec's formulas, with the duty table written out; the outputs lie in their ranges, and the mix lies in `[0, 1)` in
every state; a channel the host has muted adds nothing to it. -/
def Obligations.OutputsAndMixLieInTheirRanges : Prop :=
  (∀ (first : Bool) (p : Pulse) (t : Triangle) (n : Noise),
    let duty := [[0, 1, 0, 0, 0, 0, 0, 0], [0, 1, 1, 0, 0, 0, 0, 0], [0, 1, 1, 1, 1, 0, 0, 0], [1, 0, 0, 1, 1, 1, 1, 1]]
    pulseOut first p =
      (if (duty.getD p.duty.toNat []).getD p.seq.toNat 0 = 0 ∨ p.length = 0 ∨ sweepMuted first p = true then 0
        else if p.constVol then p.vol.toNat else p.env.decay.toNat) ∧
    triOut t = (if t.seq.toNat < 16 then 15 - t.seq.toNat else t.seq.toNat - 16) ∧
    noiseOut n =
      (if n.lfsr.toNat % 2 = 1 ∨ n.length = 0 then 0 else if n.constVol then n.vol.toNat else n.env.decay.toNat) ∧
    pulseOut first p ≤ 15 ∧ triOut t ≤ 15 ∧ noiseOut n ≤ 15) ∧
  (∀ s : State,
    let lv := fun (ch : Channel) => if isMuted ch s then 0 else level ch s
    let p := lv .p1 + lv .p2
    let w := lv .tri / 8227 + lv .noi / 12241 + lv .dmc / 22638
    level .p1 s = (pulseOut true s.apu.pulse1 : Nat) ∧ level .p2 s = (pulseOut false s.apu.pulse2 : Nat) ∧
    level .tri s = (triOut s.apu.tri : Nat) ∧ level .noi s = (noiseOut s.apu.noise : Nat) ∧
    level .dmc s = (s.apu.dmc.level.toNat : Nat) ∧ level .fds s = s.fds.filtered ∧
    mix2A03 s = (if p = 0 then 0 else 95.88 / (8128 / p + 100)) + (if w = 0 then 0 else 159.79 / (1 / w + 100)) ∧
    0 ≤ mix2A03 s ∧ mix2A03 s < 1)

/-- Rules R815, R816 and R817: once triggered, the fade-out timer reaches exactly 0 after `length` further frames, not
before; and while it counts down the volume divisor is at least 1. -/
def Obligations.FadeOutReachesZeroAfterItsLength : Prop :=
  ∀ (length k : Nat) (trigger : Nat → Bool),
    (fadeAfter trigger length k = some (length - k)) ∧ (k < length → 1 ≤ fadeDivisor length (length - k))

/-- Rules R801 to R806, R818, R819 and R1004: the render loop. Idle is left for Error, with the cause, when the
configuration is not valid, before any frame is run; else for Priming, at the start of the track. Priming runs one frame of
the device and discards its audio. A Stepping frame runs one frame of the device, updates loops and fade-out, pushes the
video frame and the audio of that frame under its own slot, and encodes until the encoder stops; it leads to Draining when
the timer is 0. Draining flushes all that is buffered and writes the trailer. A failure leads to Error from any other
state, and nothing leads out of it. No step reorders, loses or adds to what was pushed; the order in which audio and video
packets are muxed is not said here. These clauses are the model's choices and not the rules' (log entry 20): that Priming
puts the ring buffers back as they were before its frame (`channels := r.device.channels`); that a Stepping frame's audio
is faded by the timer as that frame leaves it; that the position is read after the frame's operations; that an aborted
render keeps its first failure and that Done can fail; and how the renderer stands beside the device. -/
def Obligations.RendererPushesWholeFramesInPresentationOrder : Prop :=
  (∀ (c : RenderConfig) (e : RenderEvent) (r : Renderer), SlotsInOrder r → SlotsInOrder (r.step c e)) ∧
  SlotsInOrder Renderer.reset ∧
  (∀ (c : RenderConfig) (r : Renderer), r.phase = .idle →
    (∀ e, validate c = some e → r.step c .start = { r with phase := .error (.config e) }) ∧
    (validate c = none → (r.step c .start).phase = .priming ∧ (r.step c .start).currentFrame = 0 ∧
      (r.step c .start).device = drain (trackStart c.nsf.usesFds c.nsf.init))) ∧
  (∀ (c : RenderConfig) (f : FrameRun) (r : Renderer), r.phase = .priming →
    r.step c (.frame f) = { r with
      phase := .stepping, device := { (runFrame f r.device).1 with channels := r.device.channels } }) ∧
  (∀ (c : RenderConfig) (f : FrameRun) (r : Renderer), r.phase = .stepping →
    let run := runFrame f r.device
    let t := r.step c (.frame f)
    let n := r.currentFrame + 1
    t.currentFrame = n ∧ t.phase = (if t.fade = some 0 then .draining else .stepping) ∧
    t.device = { run.1 with host := { run.1.host with draws := t.device.host.draws } } ∧
    t.loops = loopsAfter n (songPositionOf c run.1) r.loops ∧
    t.fade = fadeStep (fadeTriggered c n (songPositionOf c run.1) t.loops) c.fadeoutLength r.fade ∧
    t.encoder.allVideo = r.encoder.allVideo ++ [{ slot := n, capture := run.1.channels }] ∧
    t.encoder.allAudio = r.encoder.allAudio ++
      run.2.map (fun v => { slot := n, value := faded c.fadeoutLength t.fade v }) ∧
    t.encoder.next = .stop) ∧
  (∀ (c : RenderConfig) (r : Renderer), r.phase = .draining →
    let t := r.step c .finish
    t.phase = .done ∧ t.encoder.ended = true ∧ t.encoder.trailer = true ∧ t.encoder.audio = [] ∧ t.encoder.video = [] ∧
    t.encoder.allAudio = r.encoder.allAudio ∧ t.encoder.allVideo = r.encoder.allVideo ∧ t.device = r.device) ∧
  (∀ (c : RenderConfig) (x : Failure) (r : Renderer), (∀ y, r.phase ≠ .error y) →
    r.step c (.failure x) = { r with phase := .error x }) ∧
  (∀ (c : RenderConfig) (e : RenderEvent) (r : Renderer) (y : Failure), r.phase = .error y →
    r.step c e = r ∧ r.outcome = some (.error y))
end

