-- ==== Sys2Proof/Laws/Bits.lean ====
section
/-! SUPPORT. The data byte's fields as numbers (`field`, `flag`) and as the bit vectors the meanings use, and the
registers assembled from a low and a high byte. -/

namespace Sys2Proof.Machine

theorem bit_eq_flag (d : Byte) (i : Nat) : bit d i = flag d i := by
  simp only [bit, flag, BitVec.getLsbD, Nat.testBit_eq_decide_div_mod_eq]

theorem extract_toNat (d : Byte) (lo n : Nat) : (d.extractLsb' lo n).toNat = d.toNat / 2 ^ lo % 2 ^ n := by
  simp [BitVec.extractLsb'_toNat, Nat.shiftRight_eq_div_pow]

/-- A field of the data byte, as the meanings take it and as the statements read it. -/
theorem extract_eq_field (d : Byte) (hi lo : Nat) :
    (d.extractLsb' lo (hi - lo + 1)).toNat = field d hi lo := by
  rw [extract_toNat]; rfl

theorem append_toNat {m n : Nat} (x : BitVec m) (y : BitVec n) :
    (x ++ y).toNat = x.toNat * 2 ^ n + y.toNat := by
  rw [BitVec.toNat_append, Nat.shiftLeft_eq, Nat.mul_comm, ← Nat.two_pow_add_eq_or_of_lt y.isLt]

theorem withLow11_toNat (p : BitVec 11) (d : Byte) :
    (withLow11 p d).toNat = p.toNat / 256 * 256 + d.toNat := by
  have h := p.isLt
  simp only [withLow11, append_toNat, BitVec.extractLsb'_toNat, Nat.shiftRight_eq_div_pow]
  omega

theorem withHigh11_toNat (p : BitVec 11) (d : Byte) :
    (withHigh11 p d).toNat = p.toNat % 256 + 256 * field d 2 0 := by
  simp only [withHigh11, append_toNat, BitVec.extractLsb'_toNat, Nat.shiftRight_eq_div_pow, field]
  omega

theorem withLow12_toNat (f : BitVec 12) (d : Byte) :
    (withLow12 f d).toNat = f.toNat / 256 * 256 + d.toNat := by
  have h := f.isLt
  simp only [withLow12, append_toNat, BitVec.extractLsb'_toNat, Nat.shiftRight_eq_div_pow]
  omega

theorem withHigh12_toNat (f : BitVec 12) (d : Byte) :
    (withHigh12 f d).toNat = f.toNat % 256 + 256 * field d 3 0 := by
  simp only [withHigh12, append_toNat, BitVec.extractLsb'_toNat, Nat.shiftRight_eq_div_pow, field]
  omega

theorem withLow16_toNat (f : BitVec 16) (d : Byte) :
    (withLow16 f d).toNat = f.toNat / 256 * 256 + d.toNat := by
  have h := f.isLt
  simp only [withLow16, append_toNat, BitVec.extractLsb'_toNat, Nat.shiftRight_eq_div_pow]
  omega

theorem withHigh16_toNat (f : BitVec 16) (d : Byte) :
    (withHigh16 f d).toNat = f.toNat % 256 + 256 * field d 3 0 := by
  simp only [withHigh16, append_toNat, BitVec.extractLsb'_toNat, Nat.shiftRight_eq_div_pow, field, BitVec.toNat_ofNat]
  omega

theorem lengthOf_eq (d : Byte) : lengthOf d = lengthTable.getD (field d 7 3) 0 := by
  rw [lengthOf, show (d.extractLsb' 3 5).toNat = field d 7 3 from extract_eq_field d 7 3]

/-- The table index of a phase is its top six bits, read as a number (rule R18). -/
theorem tableIndex_toNat (p : BitVec 22) : (tableIndex p).toNat = p.toNat / 0x10000 := by
  have h := p.isLt
  simp only [tableIndex, BitVec.extractLsb'_toNat, Nat.shiftRight_eq_div_pow]
  omega

theorem tableIndex_eq_ofNat (p : BitVec 22) : tableIndex p = BitVec.ofNat 6 (p.toNat / 0x10000) := by
  apply BitVec.eq_of_toNat_eq
  have h := p.isLt
  rw [tableIndex_toNat, BitVec.toNat_ofNat]
  omega

end Sys2Proof.Machine
end

