-- ==== Sys2Proof/Laws/State.lean ====
section
/-! SUPPORT. What each update of the state leaves in each field: one lemma per field per update, so that no later proof
unfolds a record update. -/

namespace Sys2Proof.Machine

@[simp] theorem withApu_dev (a : Apu) (s : State) : (s.withApu a).dev = s.dev := rfl
@[simp] theorem withApu_apu (a : Apu) (s : State) : (s.withApu a).apu = a := rfl
@[simp] theorem withApu_fds (a : Apu) (s : State) : (s.withApu a).fds = s.fds := rfl
@[simp] theorem withApu_channels (a : Apu) (s : State) : (s.withApu a).channels = s.channels := rfl
@[simp] theorem withApu_params (a : Apu) (s : State) : (s.withApu a).params = s.params := rfl
@[simp] theorem withApu_host (a : Apu) (s : State) : (s.withApu a).host = s.host := rfl

@[simp] theorem withFds_dev (f : Fds) (s : State) : (s.withFds f).dev = s.dev := rfl
@[simp] theorem withFds_apu (f : Fds) (s : State) : (s.withFds f).apu = s.apu := rfl
@[simp] theorem withFds_fds (f : Fds) (s : State) : (s.withFds f).fds = f := rfl
@[simp] theorem withFds_channels (f : Fds) (s : State) : (s.withFds f).channels = s.channels := rfl
@[simp] theorem withFds_params (f : Fds) (s : State) : (s.withFds f).params = s.params := rfl
@[simp] theorem withFds_host (f : Fds) (s : State) : (s.withFds f).host = s.host := rfl

@[simp] theorem emit_dev (e : Event) (s : State) : (emit e s).dev = s.dev := rfl
@[simp] theorem emit_apu (e : Event) (s : State) : (emit e s).apu = s.apu := rfl
@[simp] theorem emit_fds (e : Event) (s : State) : (emit e s).fds = s.fds := rfl
@[simp] theorem emit_channels (e : Event) (s : State) : (emit e s).channels = s.channels := rfl
@[simp] theorem emit_params (e : Event) (s : State) : (emit e s).params = s.params := rfl
@[simp] theorem emit_host (e : Event) (s : State) : (emit e s).host = { s.host with events := e :: s.host.events } := rfl

@[simp] theorem refuse_dev (c : Condition) (s : State) : (refuse c s).dev = { s.dev with refused := true } := rfl
@[simp] theorem refuse_apu (c : Condition) (s : State) : (refuse c s).apu = s.apu := rfl
@[simp] theorem refuse_fds (c : Condition) (s : State) : (refuse c s).fds = s.fds := rfl
@[simp] theorem refuse_channels (c : Condition) (s : State) : (refuse c s).channels = s.channels := rfl
@[simp] theorem refuse_params (c : Condition) (s : State) : (refuse c s).params = s.params := rfl
@[simp] theorem refuse_host (c : Condition) (s : State) : (refuse c s).host = { s.host with events := .condition c :: s.host.events } := rfl

@[simp] theorem takeFault_dev (f : Fault) (s : State) : (takeFault f s).dev = { s.dev with faulted := true } := rfl
@[simp] theorem takeFault_apu (f : Fault) (s : State) : (takeFault f s).apu = s.apu := rfl
@[simp] theorem takeFault_fds (f : Fault) (s : State) : (takeFault f s).fds = s.fds := rfl
@[simp] theorem takeFault_channels (f : Fault) (s : State) : (takeFault f s).channels = s.channels := rfl
@[simp] theorem takeFault_params (f : Fault) (s : State) : (takeFault f s).params = s.params := rfl
@[simp] theorem takeFault_host (f : Fault) (s : State) : (takeFault f s).host = { s.host with events := .condition f.condition :: s.host.events } := rfl

@[simp] theorem draw_dev (s : State) : ((draw s).2).dev = s.dev := rfl
@[simp] theorem draw_apu (s : State) : ((draw s).2).apu = s.apu := rfl
@[simp] theorem draw_fds (s : State) : ((draw s).2).fds = s.fds := rfl
@[simp] theorem draw_channels (s : State) : ((draw s).2).channels = s.channels := rfl
@[simp] theorem draw_params (s : State) : ((draw s).2).params = s.params := rfl
@[simp] theorem draw_host (s : State) : ((draw s).2).host = { s.host with draws := s.host.draws + 1 } := rfl

@[simp] theorem issue_dev (ops : List OpWord) (s : State) : (issue ops s).dev = s.dev := rfl
@[simp] theorem issue_apu (ops : List OpWord) (s : State) : (issue ops s).apu = s.apu := rfl
@[simp] theorem issue_fds (ops : List OpWord) (s : State) : (issue ops s).fds = s.fds := rfl
@[simp] theorem issue_channels (ops : List OpWord) (s : State) : (issue ops s).channels = s.channels := rfl
@[simp] theorem issue_params (ops : List OpWord) (s : State) : (issue ops s).params = s.params := rfl
@[simp] theorem issue_host (ops : List OpWord) (s : State) : (issue ops s).host = { s.host with ops := s.host.ops ++ ops } := rfl

@[simp] theorem onPulse1_dev (g : Pulse → Pulse) (s : State) : (onPulse1 g s).dev = s.dev := rfl
@[simp] theorem onPulse1_apu (g : Pulse → Pulse) (s : State) : (onPulse1 g s).apu = { s.apu with pulse1 := g s.apu.pulse1 } := rfl
@[simp] theorem onPulse1_fds (g : Pulse → Pulse) (s : State) : (onPulse1 g s).fds = s.fds := rfl
@[simp] theorem onPulse1_channels (g : Pulse → Pulse) (s : State) : (onPulse1 g s).channels = s.channels := rfl
@[simp] theorem onPulse1_params (g : Pulse → Pulse) (s : State) : (onPulse1 g s).params = s.params := rfl
@[simp] theorem onPulse1_host (g : Pulse → Pulse) (s : State) : (onPulse1 g s).host = s.host := rfl

@[simp] theorem onPulse2_dev (g : Pulse → Pulse) (s : State) : (onPulse2 g s).dev = s.dev := rfl
@[simp] theorem onPulse2_apu (g : Pulse → Pulse) (s : State) : (onPulse2 g s).apu = { s.apu with pulse2 := g s.apu.pulse2 } := rfl
@[simp] theorem onPulse2_fds (g : Pulse → Pulse) (s : State) : (onPulse2 g s).fds = s.fds := rfl
@[simp] theorem onPulse2_channels (g : Pulse → Pulse) (s : State) : (onPulse2 g s).channels = s.channels := rfl
@[simp] theorem onPulse2_params (g : Pulse → Pulse) (s : State) : (onPulse2 g s).params = s.params := rfl
@[simp] theorem onPulse2_host (g : Pulse → Pulse) (s : State) : (onPulse2 g s).host = s.host := rfl

@[simp] theorem onTri_dev (g : Triangle → Triangle) (s : State) : (onTri g s).dev = s.dev := rfl
@[simp] theorem onTri_apu (g : Triangle → Triangle) (s : State) : (onTri g s).apu = { s.apu with tri := g s.apu.tri } := rfl
@[simp] theorem onTri_fds (g : Triangle → Triangle) (s : State) : (onTri g s).fds = s.fds := rfl
@[simp] theorem onTri_channels (g : Triangle → Triangle) (s : State) : (onTri g s).channels = s.channels := rfl
@[simp] theorem onTri_params (g : Triangle → Triangle) (s : State) : (onTri g s).params = s.params := rfl
@[simp] theorem onTri_host (g : Triangle → Triangle) (s : State) : (onTri g s).host = s.host := rfl

@[simp] theorem onNoise_dev (g : Noise → Noise) (s : State) : (onNoise g s).dev = s.dev := rfl
@[simp] theorem onNoise_apu (g : Noise → Noise) (s : State) : (onNoise g s).apu = { s.apu with noise := g s.apu.noise } := rfl
@[simp] theorem onNoise_fds (g : Noise → Noise) (s : State) : (onNoise g s).fds = s.fds := rfl
@[simp] theorem onNoise_channels (g : Noise → Noise) (s : State) : (onNoise g s).channels = s.channels := rfl
@[simp] theorem onNoise_params (g : Noise → Noise) (s : State) : (onNoise g s).params = s.params := rfl
@[simp] theorem onNoise_host (g : Noise → Noise) (s : State) : (onNoise g s).host = s.host := rfl

@[simp] theorem onDmc_dev (g : Dmc → Dmc) (s : State) : (onDmc g s).dev = s.dev := rfl
@[simp] theorem onDmc_apu (g : Dmc → Dmc) (s : State) : (onDmc g s).apu = { s.apu with dmc := g s.apu.dmc } := rfl
@[simp] theorem onDmc_fds (g : Dmc → Dmc) (s : State) : (onDmc g s).fds = s.fds := rfl
@[simp] theorem onDmc_channels (g : Dmc → Dmc) (s : State) : (onDmc g s).channels = s.channels := rfl
@[simp] theorem onDmc_params (g : Dmc → Dmc) (s : State) : (onDmc g s).params = s.params := rfl
@[simp] theorem onDmc_host (g : Dmc → Dmc) (s : State) : (onDmc g s).host = s.host := rfl

@[simp] theorem onWave_dev (g : FdsWave → FdsWave) (s : State) : (onWave g s).dev = s.dev := rfl
@[simp] theorem onWave_apu (g : FdsWave → FdsWave) (s : State) : (onWave g s).apu = s.apu := rfl
@[simp] theorem onWave_fds (g : FdsWave → FdsWave) (s : State) : (onWave g s).fds = { s.fds with wave := g s.fds.wave } := rfl
@[simp] theorem onWave_channels (g : FdsWave → FdsWave) (s : State) : (onWave g s).channels = s.channels := rfl
@[simp] theorem onWave_params (g : FdsWave → FdsWave) (s : State) : (onWave g s).params = s.params := rfl
@[simp] theorem onWave_host (g : FdsWave → FdsWave) (s : State) : (onWave g s).host = s.host := rfl

@[simp] theorem onMod_dev (g : FdsMod → FdsMod) (s : State) : (onMod g s).dev = s.dev := rfl
@[simp] theorem onMod_apu (g : FdsMod → FdsMod) (s : State) : (onMod g s).apu = s.apu := rfl
@[simp] theorem onMod_fds (g : FdsMod → FdsMod) (s : State) : (onMod g s).fds = { s.fds with mod := g s.fds.mod } := rfl
@[simp] theorem onMod_channels (g : FdsMod → FdsMod) (s : State) : (onMod g s).channels = s.channels := rfl
@[simp] theorem onMod_params (g : FdsMod → FdsMod) (s : State) : (onMod g s).params = s.params := rfl
@[simp] theorem onMod_host (g : FdsMod → FdsMod) (s : State) : (onMod g s).host = s.host := rfl

@[simp] theorem movePosition_dev (g : BitVec 7 → BitVec 7) (s : State) : (movePosition g s).dev = s.dev := rfl
@[simp] theorem movePosition_apu (g : BitVec 7 → BitVec 7) (s : State) : (movePosition g s).apu = s.apu := rfl
@[simp] theorem movePosition_fds (g : BitVec 7 → BitVec 7) (s : State) : (movePosition g s).fds = { s.fds with mod := { s.fds.mod with position := g s.fds.mod.position } } := rfl
@[simp] theorem movePosition_channels (g : BitVec 7 → BitVec 7) (s : State) : (movePosition g s).channels = s.channels := rfl
@[simp] theorem movePosition_params (g : BitVec 7 → BitVec 7) (s : State) : (movePosition g s).params = s.params := rfl
@[simp] theorem movePosition_host (g : BitVec 7 → BitVec 7) (s : State) : (movePosition g s).host = s.host := rfl

@[simp] theorem modAdvance_dev (m : FdsMod) (s : State) : (modAdvance m s).dev = s.dev := rfl
@[simp] theorem modAdvance_apu (m : FdsMod) (s : State) : (modAdvance m s).apu = s.apu := rfl
@[simp] theorem modAdvance_fds (m : FdsMod) (s : State) : (modAdvance m s).fds = { s.fds with mod := { s.fds.mod with phase := BitVec.ofNat 22 (modNewPhase m) } } := rfl
@[simp] theorem modAdvance_channels (m : FdsMod) (s : State) : (modAdvance m s).channels = s.channels := rfl
@[simp] theorem modAdvance_params (m : FdsMod) (s : State) : (modAdvance m s).params = s.params := rfl
@[simp] theorem modAdvance_host (m : FdsMod) (s : State) : (modAdvance m s).host = s.host := rfl

@[simp] theorem tickEnd_dev (i : BitVec 6) (s : State) : (tickEnd i s).dev = { s.dev with cycle := s.dev.cycle + 1 } := rfl
@[simp] theorem tickEnd_apu (i : BitVec 6) (s : State) : (tickEnd i s).apu = s.apu := rfl
@[simp] theorem tickEnd_fds (i : BitVec 6) (s : State) : (tickEnd i s).fds = fdsOutput s.params.filterA1 i (waveClock s.fds) := rfl
@[simp] theorem tickEnd_channels (i : BitVec 6) (s : State) : (tickEnd i s).channels = s.channels := rfl
@[simp] theorem tickEnd_params (i : BitVec 6) (s : State) : (tickEnd i s).params = s.params := rfl
@[simp] theorem tickEnd_host (i : BitVec 6) (s : State) : (tickEnd i s).host = s.host := rfl

@[simp] theorem fdsStage2_dev (s : State) : (fdsStage2 s).dev = s.dev := rfl
@[simp] theorem fdsStage2_apu (s : State) : (fdsStage2 s).apu = s.apu := rfl
@[simp] theorem fdsStage2_fds (s : State) : (fdsStage2 s).fds = { s.fds with y2 := lowPass s.params.filterA2 s.fds.y2 s.fds.filtered } := rfl
@[simp] theorem fdsStage2_channels (s : State) : (fdsStage2 s).channels = s.channels := rfl
@[simp] theorem fdsStage2_params (s : State) : (fdsStage2 s).params = s.params := rfl
@[simp] theorem fdsStage2_host (s : State) : (fdsStage2 s).host = s.host := rfl

@[simp] theorem pushSample_dev (ch : Channel) (v : Rat) (s : State) : (pushSample ch v s).dev = s.dev := rfl
@[simp] theorem pushSample_apu (ch : Channel) (v : Rat) (s : State) : (pushSample ch v s).apu = s.apu := rfl
@[simp] theorem pushSample_fds (ch : Channel) (v : Rat) (s : State) : (pushSample ch v s).fds = s.fds := rfl
@[simp] theorem pushSample_channels (ch : Channel) (v : Rat) (s : State) : (pushSample ch v s).channels = s.channels.set ch ((s.channels.get ch).push (Config.sampleQuantize v) (edgeOf ch s)) := rfl
@[simp] theorem pushSample_params (ch : Channel) (v : Rat) (s : State) : (pushSample ch v s).params = s.params := rfl
@[simp] theorem pushSample_host (ch : Channel) (v : Rat) (s : State) : (pushSample ch v s).host = s.host := rfl

@[simp] theorem memRead_answer (a : Addr) (s : State) : (memRead a s).1 = memAnswer s a := rfl
@[simp] theorem memRead_dev (a : Addr) (s : State) : (memRead a s).2.dev = s.dev := rfl
@[simp] theorem memRead_apu (a : Addr) (s : State) : (memRead a s).2.apu = s.apu := rfl
@[simp] theorem memRead_fds (a : Addr) (s : State) : (memRead a s).2.fds = s.fds := rfl
@[simp] theorem memRead_channels (a : Addr) (s : State) : (memRead a s).2.channels = s.channels := rfl
@[simp] theorem memRead_params (a : Addr) (s : State) : (memRead a s).2.params = s.params := rfl
@[simp] theorem memRead_host (a : Addr) (s : State) : (memRead a s).2.host =
    { s.host with events := .memRead a (memAnswer s a) :: s.host.events, draws := s.host.draws + 1 } := rfl

end Sys2Proof.Machine
end

