-- ==== Sys2Proof/Laws/Ops.lean ====
section
/-! SUPPORT. The laws of the named operations: the two FDS register files, the host's memory and its canonical form, the
channels and their ring buffers. -/

namespace Sys2Proof.Machine

/-! ### Register files -/

@[simp] theorem waveEntry_set_self (w : FdsWave) (i : BitVec 6) (v : BitVec 6) :
    waveEntry (setWaveEntry w i v) i = v := by
  simp [waveEntry, setWaveEntry]

theorem waveEntry_set_ne (w : FdsWave) {i j : BitVec 6} (v : BitVec 6) (h : j ≠ i) :
    waveEntry (setWaveEntry w i v) j = waveEntry w j := by
  have hn : i.toNat ≠ j.toNat := fun e => h (BitVec.eq_of_toNat_eq e.symm)
  simp [waveEntry, setWaveEntry, hn]

@[simp] theorem modEntry_set_self (m : FdsMod) (i : BitVec 6) (v : Byte) :
    modEntry (setModEntry m i v) i = v := by
  simp [modEntry, setModEntry]

theorem modEntry_set_ne (m : FdsMod) {i j : BitVec 6} (v : Byte) (h : j ≠ i) :
    modEntry (setModEntry m i v) j = modEntry m j := by
  have hn : i.toNat ≠ j.toNat := fun e => h (BitVec.eq_of_toNat_eq e.symm)
  simp [modEntry, setModEntry, hn]

/-! ### The host's memory -/

theorem Memory.lookup_place_self (m : Memory) (a : Nat) (v : Byte) : (m.place a v).lookup a = some v := by
  induction m with
  | nil => simp [place, lookup]
  | cons c rest ih =>
    obtain ⟨b, u⟩ := c
    simp only [place]
    split
    · simp [lookup]
    · split
      · simp [lookup]
      · simp only [lookup]
        rw [if_neg (fun e => by omega)]
        exact ih

theorem Memory.lookup_place_ne (m : Memory) {a b : Nat} (v : Byte) (h : b ≠ a) :
    (m.place a v).lookup b = m.lookup b := by
  induction m with
  | nil => simp [place, lookup, Ne.symm h]
  | cons c rest ih =>
    obtain ⟨e, u⟩ := c
    simp only [place]
    split
    · simp [lookup, Ne.symm h]
    · split
      · subst_vars; simp [lookup, Ne.symm h]
      · simp only [lookup, ih]

theorem Memory.wfFrom_place (m : Memory) {lo a : Nat} (v : Byte) (hl : lo ≤ a) (ha : a < 0x10000)
    (h : Memory.wfFrom lo m = true) : Memory.wfFrom lo (m.place a v) = true := by
  induction m generalizing lo with
  | nil => simp [place, wfFrom, hl, ha]
  | cons c rest ih =>
    obtain ⟨b, u⟩ := c
    simp only [wfFrom, Bool.and_eq_true, decide_eq_true_eq] at h
    obtain ⟨⟨h1, h2⟩, h3⟩ := h
    simp only [place]
    split
    · simp only [wfFrom, Bool.and_eq_true, decide_eq_true_eq]
      exact ⟨⟨hl, ha⟩, ⟨by omega, h2⟩, h3⟩
    · split
      · subst_vars
        simp only [wfFrom, Bool.and_eq_true, decide_eq_true_eq]
        exact ⟨⟨hl, ha⟩, h3⟩
      · simp only [wfFrom, Bool.and_eq_true, decide_eq_true_eq]
        exact ⟨⟨h1, h2⟩, ih (by omega) h3⟩

/-- Placing a byte inside the sample space, the one operation that writes memory, keeps the canonical form. -/
theorem Memory.wf_place (m : Memory) {a : Nat} (v : Byte) (ha : a < 0x10000) (h : m.wf = true) :
    (m.place a v).wf = true :=
  wfFrom_place m v (Nat.zero_le a) ha h

/-! ### Channels and ring buffers -/

@[simp] theorem Channels.get_set_self (c : Channels) (ch : Channel) (b : ChannelBuf) : (c.set ch b).get ch = b := by
  cases ch <;> rfl

theorem Channels.get_set_ne (c : Channels) {ch k : Channel} (b : ChannelBuf) (h : k ≠ ch) :
    (c.set ch b).get k = c.get k := by
  cases ch <;> cases k <;> first | rfl | exact absurd rfl h

@[simp] theorem ChannelBuf.push_muted (b : ChannelBuf) (v : Sample) (e : Bool) : (b.push v e).muted = b.muted := rfl

/-- A push keeps the two buffers in step and the cursor inside them (rule R501). -/
theorem ChannelBuf.push_sane (b : ChannelBuf) (v : Sample) (e : Bool) (h : RingSane b) : RingSane (b.push v e) := by
  obtain ⟨hl, hc⟩ := h
  refine ⟨by simpa [push] using hl, ?_⟩
  simp only [push, capacity, List.length_set]
  exact Nat.mod_lt _ (by omega)

/-- Replacing one channel's buffers by sane ones keeps all sane. -/
theorem Channels.set_sane {c : Channels} (ch : Channel) {b : ChannelBuf} (hb : RingSane b)
    (h : ∀ k, RingSane (c.get k)) : ∀ k, RingSane ((c.set ch b).get k) := by
  intro k
  by_cases e : k = ch
  · subst e; simpa using hb
  · rw [get_set_ne c b e]; exact h k

end Sys2Proof.Machine
end

