-- ==== Sys2Proof/Laws/Clocks.lean ====
section
/-! SUPPORT. What the clocked units and the modulator can do, said once each: one lemma per shared operation, which later
proofs cite instead of unfolding it. -/

namespace Sys2Proof.Machine

/-! ### Frame counter -/

@[simp] theorem quarterFrame_frame (a : Apu) : (quarterFrame a).frame = a.frame := rfl
@[simp] theorem quarterFrame_dmc (a : Apu) : (quarterFrame a).dmc = a.dmc := rfl
@[simp] theorem quarterFrame_lfsr (a : Apu) : (quarterFrame a).noise.lfsr = a.noise.lfsr := rfl
@[simp] theorem halfFrame_frame (a : Apu) : (halfFrame a).frame = a.frame := rfl
@[simp] theorem halfFrame_dmc (a : Apu) : (halfFrame a).dmc = a.dmc := rfl
@[simp] theorem halfFrame_lfsr (a : Apu) : (halfFrame a).noise.lfsr = a.noise.lfsr := rfl

@[simp] theorem frameClocks_dmc (a : Apu) : (frameClocks a).dmc = a.dmc := by
  simp only [frameClocks]; split <;> split <;> rfl

@[simp] theorem frameClocks_lfsr (a : Apu) : (frameClocks a).noise.lfsr = a.noise.lfsr := by
  simp only [frameClocks]; split <;> split <;> rfl

/-- `FrameTick` while no reset is due. -/
theorem frameTick_step (a : Apu) (h : a.frame.pending ≠ 1) :
    frameTick a =
      frameSteps { a with frame := { a.frame with pending := a.frame.pending - 1, count := a.frame.count + 1 } } := by
  rw [frameTick, if_neg h]

/-- `FrameTick` when a reset is due. -/
theorem frameTick_reset (a : Apu) (h : a.frame.pending = 1) :
    (frameTick a).frame = { a.frame with pending := 0, count := 0 } := by
  rw [frameTick, if_pos h]; dsimp only; split <;> rfl

/-- `FrameTick` counts down the pending reset and never changes the mode or the inhibit. -/
theorem frameTick_frame (a : Apu) :
    (frameTick a).frame.pending = a.frame.pending - 1 ∧ (frameTick a).frame.mode = a.frame.mode ∧
      (frameTick a).frame.irqInhibit = a.frame.irqInhibit := by
  by_cases h : a.frame.pending = 1
  · rw [frameTick_reset a h, h]; exact ⟨rfl, rfl, rfl⟩
  · rw [frameTick_step a h, frameSteps]; exact ⟨rfl, rfl, rfl⟩

@[simp] theorem frameTick_dmc (a : Apu) : (frameTick a).dmc = a.dmc := by
  by_cases h : a.frame.pending = 1
  · rw [frameTick, if_pos h]; dsimp only; split <;> rfl
  · rw [frameTick_step a h, frameSteps]; exact frameClocks_dmc _

@[simp] theorem frameTick_lfsr (a : Apu) : (frameTick a).noise.lfsr = a.noise.lfsr := by
  by_cases h : a.frame.pending = 1
  · rw [frameTick, if_pos h]; dsimp only; split <;> rfl
  · rw [frameTick_step a h, frameSteps]; exact frameClocks_lfsr _

/-- The frame interrupt flag after `FrameTick`. -/
theorem frameTick_irq (a : Apu) :
    (frameTick a).frame.frameIrq = (a.frame.frameIrq || (decide (a.frame.pending ≠ 1) &&
      irqAt a.frame.mode (a.frame.count + 1).toNat && !a.frame.irqInhibit)) := by
  by_cases h : a.frame.pending = 1
  · rw [frameTick_reset a h]; simp [h]
  · rw [frameTick_step a h, frameSteps]; simp [h]

/-! ### DMC -/

/-- The timer and the output unit leave the reader, the registers and the interrupt flag alone. -/
theorem dmcTimer_keeps (m : Dmc) :
    (dmcTimer m).bytesRem = m.bytesRem ∧ (dmcTimer m).curAddr = m.curAddr ∧ (dmcTimer m).loop = m.loop ∧
      (dmcTimer m).irqEnable = m.irqEnable ∧ (dmcTimer m).irqFlag = m.irqFlag ∧
      (dmcTimer m).sampleAddr = m.sampleAddr ∧ (dmcTimer m).sampleLen = m.sampleLen := by
  simp only [dmcTimer, dmcOutputClock, dmcNewCycle, dmcShift]
  split
  · split
    · split <;> simp
    · simp
  · simp

/-- The bit count after the timer: it stays between 1 and 8. -/
theorem dmcTimer_bits (m : Dmc) (h1 : 1 ≤ m.bitsRem.toNat) (h8 : m.bitsRem.toNat ≤ 8) :
    1 ≤ (dmcTimer m).bitsRem.toNat ∧ (dmcTimer m).bitsRem.toNat ≤ 8 := by
  have hs : (m.bitsRem - 1).toNat = m.bitsRem.toNat - 1 := by
    rw [BitVec.toNat_sub]; have := m.bitsRem.isLt; simp; omega
  simp only [dmcTimer, dmcOutputClock, dmcNewCycle, dmcShift]
  split
  · split
    · split <;> simp
    · rename_i hz
      have : (m.bitsRem - 1).toNat ≠ 0 := fun e => hz (BitVec.eq_of_toNat_eq e)
      dsimp only
      omega
  · exact ⟨h1, h8⟩

/-- The address and length of a restart do not wrap. -/
theorem dmcRestart_toNat (m : Dmc) :
    (dmcRestart m).curAddr.toNat = 0xC000 + m.sampleAddr.toNat * 64 ∧
      (dmcRestart m).bytesRem.toNat = m.sampleLen.toNat * 16 + 1 := by
  have h1 := m.sampleAddr.isLt
  have h2 := m.sampleLen.isLt
  simp only [dmcRestart, BitVec.toNat_ofNat]
  omega

/-- What `DmcReader` does: nothing, or one fetch. -/
theorem dmcReader_cases (s : State) :
    (dmcFetches s.apu.dmc = false ∧ dmcReader s = s) ∨
    (dmcFetches s.apu.dmc = true ∧ dmcReader s =
      { s with
        apu := { s.apu with dmc := dmcFetched (memAnswer s s.apu.dmc.curAddr) s.apu.dmc },
        host := { s.host with
          events := .memRead s.apu.dmc.curAddr (memAnswer s s.apu.dmc.curAddr) :: s.host.events,
          draws := s.host.draws + 1 } }) := by
  by_cases h : dmcFetches s.apu.dmc = true
  · exact .inr ⟨h, by rw [dmcReader, if_pos h]; rfl⟩
  · exact .inl ⟨by simpa using h, by rw [dmcReader, if_neg h]⟩

/-! ### Modulator -/

/-- The state with the modulator's position and phase replaced. -/
def withPosPhase (p : BitVec 7) (q : BitVec 22) (s : State) : State :=
  { s with fds := { s.fds with mod := { s.fds.mod with position := p, phase := q } } }

/-- `ModExec` of a command moves the position and nothing else. -/
theorem modExec_command (c : Byte) (s : State) (h : c.toNat < 8) :
    ∃ p : BitVec 7, modExec c s = .next (movePosition (fun _ => p) s) := by
  have : c.toNat = 0 ∨ c.toNat = 1 ∨ c.toNat = 2 ∨ c.toNat = 3 ∨ c.toNat = 4 ∨ c.toNat = 5 ∨ c.toNat = 6 ∨
    c.toNat = 7 := by omega
  rcases this with e | e | e | e | e | e | e | e <;> simp only [modExec, e] <;> exact ⟨_, rfl⟩

/-- `ModExec` of anything else faults. -/
theorem modExec_bad (c : Byte) (s : State) (h : 8 ≤ c.toNat) : modExec c s = .fault .badModCommand := by
  unfold modExec
  split <;> first | omega | rfl

/-- What the modulator clock does: it moves position and phase and nothing else, or it faults on an entry that is no
command. -/
theorem modClock_cases (s : State) :
    (∃ p q, modClock s = .next (withPosPhase p q s)) ∨
    (8 ≤ (modCommand s).toNat ∧ modClock s = .fault .badModCommand) := by
  by_cases hh : s.fds.mod.halt = true
  · exact .inl ⟨s.fds.mod.position, s.fds.mod.phase, by rw [modClock, if_pos hh]; rfl⟩
  · by_cases hc : modCrosses s.fds.mod = true
    · by_cases h8 : (modCommand s).toNat < 8
      · obtain ⟨p, hp⟩ := modExec_command (modCommand s) s h8
        exact .inl ⟨p, BitVec.ofNat 22 (modNewPhase s.fds.mod), by
          rw [modClock, if_neg hh, if_pos hc, hp]; rfl⟩
      · exact .inr ⟨by omega, by rw [modClock, if_neg hh, if_pos hc, modExec_bad _ _ (by omega)]⟩
    · exact .inl ⟨s.fds.mod.position, BitVec.ofNat 22 (modNewPhase s.fds.mod), by
        rw [modClock, if_neg hh, if_neg hc]; rfl⟩

/-- A table of commands: the entry a boundary executes is one. -/
theorem modCommand_legal {s : State} (h : CommandsLegal s.fds.mod) : (modCommand s).toNat < 8 := h _

/-! ### FDS units -/

@[simp] theorem fdsLatchStep_mod (f : Fds) : (fdsLatchStep f).mod = f.mod := by
  simp only [fdsLatchStep]; split <;> rfl
@[simp] theorem fdsLatchStep_wave (f : Fds) : (fdsLatchStep f).wave = f.wave := by
  simp only [fdsLatchStep]; split <;> rfl
@[simp] theorem fdsEnvelopeStep_mod (f : Fds) : (fdsEnvelopeStep f).mod = f.mod := by
  simp only [fdsEnvelopeStep]; split <;> rfl
@[simp] theorem fdsEnvelopeStep_wave (f : Fds) : (fdsEnvelopeStep f).wave = f.wave := by
  simp only [fdsEnvelopeStep]; split <;> rfl
@[simp] theorem waveClock_mod (f : Fds) : (waveClock f).mod = f.mod := by
  simp only [waveClock]; split <;> rfl
@[simp] theorem waveClock_table (f : Fds) : (waveClock f).wave.table = f.wave.table := by
  simp only [waveClock]; split <;> rfl
@[simp] theorem waveClock_frequency (f : Fds) : (waveClock f).wave.frequency = f.wave.frequency := by
  simp only [waveClock]; split <;> rfl
@[simp] theorem waveClock_latch (f : Fds) : (waveClock f).wave.envHaltLatch = false := by
  simp only [waveClock]; split <;> rfl
@[simp] theorem waveClock_volEnv (f : Fds) : (waveClock f).volEnv = f.volEnv := by
  simp only [waveClock]; split <;> rfl
@[simp] theorem waveClock_modEnv (f : Fds) : (waveClock f).modEnv = f.modEnv := by
  simp only [waveClock]; split <;> rfl
@[simp] theorem fdsOutput_mod (a1 : Rat) (i : BitVec 6) (f : Fds) : (fdsOutput a1 i f).mod = f.mod := by
  simp only [fdsOutput]; split <;> rfl
@[simp] theorem fdsOutput_wave (a1 : Rat) (i : BitVec 6) (f : Fds) : (fdsOutput a1 i f).wave = f.wave := by
  simp only [fdsOutput]; split <;> rfl
@[simp] theorem fdsOutput_volEnv (a1 : Rat) (i : BitVec 6) (f : Fds) : (fdsOutput a1 i f).volEnv = f.volEnv := by
  simp only [fdsOutput]; split <;> rfl
@[simp] theorem fdsOutput_modEnv (a1 : Rat) (i : BitVec 6) (f : Fds) : (fdsOutput a1 i f).modEnv = f.modEnv := by
  simp only [fdsOutput]; split <;> rfl

/-! ### TICK -/

/-- What a TICK does: it ends normally, with the modulator's position and phase moved between its two halves, or it takes
the fault after its first half. -/
theorem execTick_cases (s : State) :
    (∃ p q, execTick s = .next (tickEnd (tableIndex s.fds.wave.phase) (withPosPhase p q (tickBegin s)))) ∨
    (8 ≤ (modCommand (tickBegin s)).toNat ∧ execTick s = .next (takeFault .badModCommand (tickBegin s))) := by
  obtain ⟨p, q, h⟩ | ⟨h8, h⟩ := modClock_cases (tickBegin s)
  · exact .inl ⟨p, q, by rw [execTick, h]⟩
  · exact .inr ⟨h8, by rw [execTick, h]⟩

/-- The first half of a TICK, by the reader's two cases: what it leaves alone. -/
theorem tickBegin_keeps (s : State) :
    (tickBegin s).dev = s.dev ∧ (tickBegin s).channels = s.channels ∧ (tickBegin s).params = s.params ∧
      (tickBegin s).host.ops = s.host.ops ∧ (tickBegin s).host.index = s.host.index ∧
      (tickBegin s).host.memory = s.host.memory ∧
      (tickBegin s).fds = fdsEnvelopeStep (fdsLatchStep s.fds) ∧
      (tickBegin s).apu = (dmcReader (s.withApu (apuTick s.dev.cycle s.apu))).apu := by
  obtain ⟨-, h⟩ | ⟨-, h⟩ := dmcReader_cases (s.withApu (apuTick s.dev.cycle s.apu)) <;>
    simp [tickBegin, h]

/-- The first half of a TICK leaves the modulator alone. -/
@[simp] theorem tickBegin_mod (s : State) : (tickBegin s).fds.mod = s.fds.mod := by
  rw [(tickBegin_keeps s).2.2.2.2.2.2.1]; simp

/-- The entry a TICK executes can be read off the state before it. -/
@[simp] theorem modCommand_tickBegin (s : State) : modCommand (tickBegin s) = modCommand s := by
  simp only [modCommand, tickBegin_mod, (tickBegin_keeps s).2.2.1]

/-- Whether a table holds commands depends on the table only. -/
theorem legal_of_table {m n : FdsMod} (h : n.table = m.table) (hm : CommandsLegal m) : CommandsLegal n := by
  intro i; have := hm i; simpa only [modEntry, h] using this

/-- Under any `MOD_TABLE_WRITE_MODEL`, a write to the table changes the table and the write position only. -/
theorem modTableWrite_keeps (k : ModTableWriteModel) (d : Byte) (m : FdsMod) :
    modTableWrite k d m =
      { m with table := (modTableWrite k d m).table, writePos := (modTableWrite k d m).writePos } := by
  cases k
  · simp only [modTableWrite, modTableWriteTwo]; split <;> rfl
  · rfl

/-- Under any `MOD_TABLE_WRITE_MODEL`, a write to the table stores commands. -/
theorem modTableWrite_legal (k : ModTableWriteModel) (d : Byte) {m : FdsMod} (h : CommandsLegal m) :
    CommandsLegal (modTableWrite k d m) := by
  have h8 : ∀ c : BitVec 3, (c.setWidth 8).toNat < 8 := by decide
  intro j
  cases k
  · simp only [modTableWrite, modTableWriteTwo]
    split
    · change (modEntry (setModEntry (setModEntry _ _ _) _ _) j).toNat < 8
      by_cases h1 : j = m.writePos + 1
      · rw [h1, modEntry_set_self]; exact h8 _
      · rw [modEntry_set_ne _ _ h1]
        by_cases h2 : j = m.writePos
        · rw [h2, modEntry_set_self]; exact h8 _
        · rw [modEntry_set_ne _ _ h2]; exact h j
    · exact h j
  · simp only [modTableWrite, modTableWriteSupplied, modEntry, Vector.getElem_map]
    exact h8 _

/-- A TICK of a device whose table holds commands ends normally. -/
theorem execTick_legal {s : State} (h : CommandsLegal s.fds.mod) :
    ∃ p q, execTick s = .next (tickEnd (tableIndex s.fds.wave.phase) (withPosPhase p q (tickBegin s))) := by
  obtain h' | ⟨h8, -⟩ := execTick_cases s
  · exact h'
  · rw [modCommand_tickBegin] at h8; have := modCommand_legal h; omega

end Sys2Proof.Machine
end

