-- ==== Sys2Proof/Laws/Decode.lean ====
section
/-! SUPPORT. The fields of an operation word, the word of its fields, and what the WRITE decoder answers at the
addresses no row names. -/

namespace Sys2Proof

open Sys2Proof.Machine

theorem wordKind_toNat (w : OpWord) : (wordKind w).toNat = w.toNat / 2 ^ 24 := by
  have h := w.isLt
  simp only [wordKind, BitVec.extractLsb'_toNat, Nat.shiftRight_eq_div_pow]
  omega

theorem wordAddr_toNat (w : OpWord) : (wordAddr w).toNat = w.toNat / 2 ^ 8 % 2 ^ 16 := by
  simp only [wordAddr, BitVec.extractLsb'_toNat, Nat.shiftRight_eq_div_pow]

theorem wordData_toNat (w : OpWord) : (wordData w).toNat = w.toNat % 2 ^ 8 := by
  simp only [wordData, BitVec.extractLsb'_toNat, Nat.shiftRight_zero]

theorem opWord_toNat (k : BitVec 2) (a : Addr) (d : Byte) :
    (opWord k a d).toNat = k.toNat * 2 ^ 24 + a.toNat * 2 ^ 8 + d.toNat := by
  rw [opWord, append_toNat, append_toNat, Nat.add_mul, Nat.mul_assoc, ← Nat.pow_add]

@[simp] theorem wordKind_opWord (k : BitVec 2) (a : Addr) (d : Byte) : wordKind (opWord k a d) = k := by
  apply BitVec.eq_of_toNat_eq
  have := k.isLt; have := a.isLt; have := d.isLt
  rw [wordKind_toNat, opWord_toNat]; omega

@[simp] theorem wordAddr_opWord (k : BitVec 2) (a : Addr) (d : Byte) : wordAddr (opWord k a d) = a := by
  apply BitVec.eq_of_toNat_eq
  have := k.isLt; have := a.isLt; have := d.isLt
  rw [wordAddr_toNat, opWord_toNat]; omega

@[simp] theorem wordData_opWord (k : BitVec 2) (a : Addr) (d : Byte) : wordData (opWord k a d) = d := by
  apply BitVec.eq_of_toNat_eq
  have := k.isLt; have := a.isLt; have := d.isLt
  rw [wordData_toNat, opWord_toNat]; omega

/-- A word is the word of its three fields: no bit of it is outside them. -/
theorem opWord_fields (w : OpWord) : opWord (wordKind w) (wordAddr w) (wordData w) = w := by
  apply BitVec.eq_of_toNat_eq
  have := w.isLt
  rw [opWord_toNat, wordKind_toNat, wordAddr_toNat, wordData_toNat]; omega

/-- A WRITE word decodes by its address. -/
@[simp] theorem decodeWord_writeWord (a : Addr) (d : Byte) : decodeWord (writeWord a d) = .ok (decodeWrite a d) := by
  simp [decodeWord, writeWord]

/-- A READ word decodes by its address. -/
@[simp] theorem decodeWord_readWord (a : Addr) : decodeWord (readWord a) = .ok (decodeRead a) := by
  simp [decodeWord, readWord]

/-- A RECORD word decodes by its channel id. -/
@[simp] theorem decodeWord_recordWord (id : Byte) : decodeWord (recordWord id) = .ok (decodeRecord id) := by
  simp [decodeWord, recordWord]

/-- The word of a TICK decodes to it. -/
@[simp] theorem decodeWord_tickWord : decodeWord tickWord = .ok .tick := by
  simp [decodeWord, tickWord]

/-- The top bits of an address are a constant exactly on a range of addresses. -/
theorem addr_high_eq_iff (a : Addr) {lo n : Nat} (c : BitVec n) (h : lo + n = 16) :
    a.extractLsb' lo n = c ↔ a.toNat / 2 ^ lo = c.toNat := by
  have ha : a.toNat / 2 ^ lo < 2 ^ n :=
    Nat.div_lt_of_lt_mul (by rw [← Nat.pow_add, h]; exact a.isLt)
  rw [← BitVec.toNat_inj, BitVec.extractLsb'_toNat, Nat.shiftRight_eq_div_pow, Nat.mod_eq_of_lt ha]

/-- The low part of a concatenation. -/
theorem append_low {m n : Nat} (x : BitVec m) (y : BitVec n) : (x ++ y).extractLsb' 0 n = y := by
  apply BitVec.eq_of_toNat_eq
  rw [BitVec.extractLsb'_toNat, append_toNat, Nat.shiftRight_zero, Nat.mul_add_mod_self_right, Nat.mod_eq_of_lt y.isLt]
/-! The ranges of addresses that share a row, as intervals of numbers. -/

theorem addr_high6 (a : Addr) (c : BitVec 10) : a.extractLsb' 6 10 = c ↔ a.toNat / 64 = c.toNat :=
  addr_high_eq_iff a c rfl
theorem addr_high4 (a : Addr) (c : BitVec 12) : a.extractLsb' 4 12 = c ↔ a.toNat / 16 = c.toNat :=
  addr_high_eq_iff a c rfl
theorem addr_high2 (a : Addr) (c : BitVec 14) : a.extractLsb' 2 14 = c ↔ a.toNat / 4 = c.toNat :=
  addr_high_eq_iff a c rfl
theorem addr_high1 (a : Addr) (c : BitVec 15) : a.extractLsb' 1 15 = c ↔ a.toNat / 2 = c.toNat :=
  addr_high_eq_iff a c rfl

theorem decodeWrite_waveRam (i : BitVec 6) (d : Byte) : decodeWrite (0x101#10 ++ i) d = .wrFdsWaveRam i d := by
  have hx := i.isLt
  have e : (0x101#10 ++ i).toNat = 0x4040 + i.toNat := by rw [append_toNat]; rfl
  have l : (0x101#10 ++ i).extractLsb' 0 6 = i := append_low _ _
  generalize (0x101#10 ++ i : Addr) = a at *
  unfold decodeWrite
  simp only [← BitVec.toNat_inj (x := a), addr_high6, addr_high4, addr_high2, addr_high1, BitVec.toNat_ofNat]
  iterate 24 rw [if_neg (by omega)]
  rw [if_pos (by omega), l]

theorem decodeWrite_mmc5Low (i : BitVec 4) (d : Byte) : decodeWrite (0x500#12 ++ i) d = .wrMmc5Low i d := by
  have hx := i.isLt
  have e : (0x500#12 ++ i).toNat = 0x5000 + i.toNat := by rw [append_toNat]; rfl
  have l : (0x500#12 ++ i).extractLsb' 0 4 = i := append_low _ _
  generalize (0x500#12 ++ i : Addr) = a at *
  unfold decodeWrite
  simp only [← BitVec.toNat_inj (x := a), addr_high6, addr_high4, addr_high2, addr_high1, BitVec.toNat_ofNat]
  iterate 37 rw [if_neg (by omega)]
  rw [if_pos (by omega), l]

theorem decodeWrite_mmc5Mid (i : BitVec 2) (d : Byte) : decodeWrite (0x1404#14 ++ i) d = .wrMmc5Mid i d := by
  have hx := i.isLt
  have e : (0x1404#14 ++ i).toNat = 0x5010 + i.toNat := by rw [append_toNat]; rfl
  have l : (0x1404#14 ++ i).extractLsb' 0 2 = i := append_low _ _
  generalize (0x1404#14 ++ i : Addr) = a at *
  unfold decodeWrite
  simp only [← BitVec.toNat_inj (x := a), addr_high6, addr_high4, addr_high2, addr_high1, BitVec.toNat_ofNat]
  iterate 38 rw [if_neg (by omega)]
  rw [if_pos (by omega), l]

theorem decodeWrite_mmc5High (i : BitVec 1) (d : Byte) : decodeWrite (0x280A#15 ++ i) d = .wrMmc5High i d := by
  have hx := i.isLt
  have e : (0x280A#15 ++ i).toNat = 0x5014 + i.toNat := by rw [append_toNat]; rfl
  have l : (0x280A#15 ++ i).extractLsb' 0 1 = i := append_low _ _
  generalize (0x280A#15 ++ i : Addr) = a at *
  unfold decodeWrite
  simp only [← BitVec.toNat_inj (x := a), addr_high6, addr_high4, addr_high2, addr_high1, BitVec.toNat_ofNat]
  iterate 39 rw [if_neg (by omega)]
  rw [if_pos (by omega), l]

theorem decodeWrite_vrc6Pulse1 (i : BitVec 2) (d : Byte) : decodeWrite (0x2400#14 ++ i) d = .wrVrc6Pulse1 i d := by
  have hx := i.isLt
  have e : (0x2400#14 ++ i).toNat = 0x9000 + i.toNat := by rw [append_toNat]; rfl
  have l : (0x2400#14 ++ i).extractLsb' 0 2 = i := append_low _ _
  generalize (0x2400#14 ++ i : Addr) = a at *
  unfold decodeWrite
  simp only [← BitVec.toNat_inj (x := a), addr_high6, addr_high4, addr_high2, addr_high1, BitVec.toNat_ofNat]
  iterate 40 rw [if_neg (by omega)]
  rw [if_pos (by omega), l]

theorem decodeWrite_vrc6Pulse2 (i : BitVec 1) (d : Byte) : decodeWrite (0x5000#15 ++ i) d = .wrVrc6Pulse2 i d := by
  have hx := i.isLt
  have e : (0x5000#15 ++ i).toNat = 0xa000 + i.toNat := by rw [append_toNat]; rfl
  have l : (0x5000#15 ++ i).extractLsb' 0 1 = i := append_low _ _
  generalize (0x5000#15 ++ i : Addr) = a at *
  unfold decodeWrite
  simp only [← BitVec.toNat_inj (x := a), addr_high6, addr_high4, addr_high2, addr_high1, BitVec.toNat_ofNat]
  iterate 43 rw [if_neg (by omega)]
  rw [if_pos (by omega), l]

theorem decodeWrite_vrc6Saw (i : BitVec 1) (d : Byte) : decodeWrite (0x5800#15 ++ i) d = .wrVrc6Saw i d := by
  have hx := i.isLt
  have e : (0x5800#15 ++ i).toNat = 0xb000 + i.toNat := by rw [append_toNat]; rfl
  have l : (0x5800#15 ++ i).extractLsb' 0 1 = i := append_low _ _
  generalize (0x5800#15 ++ i : Addr) = a at *
  unfold decodeWrite
  simp only [← BitVec.toNat_inj (x := a), addr_high6, addr_high4, addr_high2, addr_high1, BitVec.toNat_ofNat]
  iterate 45 rw [if_neg (by omega)]
  rw [if_pos (by omega), l]

/-- An address no row names decodes to the fallback row. -/
theorem decodeWrite_other (a : Addr) (d : Byte) (h : namedWriteAddress a = false) : decodeWrite a d = .wrOther a d := by
  simp only [namedWriteAddress, Bool.or_eq_false_iff, Bool.and_eq_false_iff, decide_eq_false_iff_not] at h
  have hx := a.isLt
  unfold decodeWrite
  simp only [← BitVec.toNat_inj (x := a), addr_high6, addr_high4, addr_high2, addr_high1, BitVec.toNat_ofNat]
  iterate 50 rw [if_neg (by omega)]

/-- A range of addresses is its top bits with any low bits. -/
theorem append_of_high {m n k : Nat} (a : BitVec k) (c : BitVec m) (hk : m + n = k) (h : a.extractLsb' n m = c) :
    (c ++ a.extractLsb' 0 n).toNat = a.toNat := by
  subst h
  have ha : a.toNat / 2 ^ n < 2 ^ m := Nat.div_lt_of_lt_mul (by rw [← Nat.pow_add, Nat.add_comm n, hk]; exact a.isLt)
  rw [append_toNat, BitVec.extractLsb'_toNat, BitVec.extractLsb'_toNat, Nat.shiftRight_eq_div_pow, Nat.shiftRight_zero, Nat.mod_eq_of_lt ha]
  exact Nat.div_add_mod' _ _


/-- A property of both branches is a property of the choice. -/
theorem ite_elim {α : Type} {P : α → Prop} {c : Prop} [Decidable c] {x y : α} (hx : c → P x) (hy : ¬c → P y) :
    P (if c then x else y) := by
  by_cases h : c
  · rw [if_pos h]; exact hx h
  · rw [if_neg h]; exact hy h

/-- What the WRITE decoder answers encodes back to the word it read. -/
theorem encode_decodeWrite (a : Addr) (d : Byte) :
    (decodeWrite a d).wf = true ∧ encode (decodeWrite a d) = .op (writeWord a d) := by
  by_cases h : namedWriteAddress a = false
  · rw [decodeWrite_other a d h]; exact ⟨by simp [Instr.wf, h], rfl⟩
  · let P := fun i : Instr => i.wf = true ∧ encode i = .op (writeWord a d)
    change P (decodeWrite a d)
    unfold decodeWrite
    iterate 50
      refine ite_elim (P := P) (fun hh => ?_) (fun _ => ?_)
      · first
          | (subst hh; exact ⟨rfl, rfl⟩)
          | exact ⟨rfl, congrArg (fun x => Code.op (writeWord x d)) (BitVec.eq_of_toNat_eq (append_of_high a _ rfl hh))⟩
    exfalso
    apply h
    simp only [← BitVec.toNat_inj (x := a), addr_high6, addr_high4, addr_high2, addr_high1, BitVec.toNat_ofNat] at *
    simp only [namedWriteAddress, Bool.or_eq_false_iff, Bool.and_eq_false_iff, decide_eq_false_iff_not]
    have := a.isLt
    omega

/-- A channel id that names no channel decodes to the fallback row. -/
theorem decodeRecord_other (id : Byte) (h : 6 ≤ id.toNat) : decodeRecord id = .recOther id := by
  unfold decodeRecord
  simp only [← BitVec.toNat_inj (x := id), BitVec.toNat_ofNat]
  iterate 6 rw [if_neg (by omega)]

end Sys2Proof
end

