-- ==== Sys2Proof/Laws/PerInstr.lean ====
section
/-! SUPPORT. Statements about every instruction as syntax, one lemma per constructor. `RoundTrip`: the decoder gives an
encoded well-formed instruction back. -/

namespace Sys2Proof.Laws.RoundTrip

open Sys2Proof

/-- A well-formed instruction is what its code decodes to. -/
def Statement (i : Instr) : Prop := i.wf = true → decode (encode i) = .ok i

theorem tick : Statement .tick :=
  fun _ => rfl

theorem wrPulse1Control (d : Byte) : Statement (.wrPulse1Control d) :=
  fun _ => decodeWord_writeWord _ d

theorem wrPulse1Sweep (d : Byte) : Statement (.wrPulse1Sweep d) :=
  fun _ => decodeWord_writeWord _ d

theorem wrPulse1PeriodLow (d : Byte) : Statement (.wrPulse1PeriodLow d) :=
  fun _ => decodeWord_writeWord _ d

theorem wrPulse1LengthHigh (d : Byte) : Statement (.wrPulse1LengthHigh d) :=
  fun _ => decodeWord_writeWord _ d

theorem wrPulse2Control (d : Byte) : Statement (.wrPulse2Control d) :=
  fun _ => decodeWord_writeWord _ d

theorem wrPulse2Sweep (d : Byte) : Statement (.wrPulse2Sweep d) :=
  fun _ => decodeWord_writeWord _ d

theorem wrPulse2PeriodLow (d : Byte) : Statement (.wrPulse2PeriodLow d) :=
  fun _ => decodeWord_writeWord _ d

theorem wrPulse2LengthHigh (d : Byte) : Statement (.wrPulse2LengthHigh d) :=
  fun _ => decodeWord_writeWord _ d

theorem wrTriLinear (d : Byte) : Statement (.wrTriLinear d) :=
  fun _ => decodeWord_writeWord _ d

theorem wrUnused4009 (d : Byte) : Statement (.wrUnused4009 d) :=
  fun _ => decodeWord_writeWord _ d

theorem wrTriPeriodLow (d : Byte) : Statement (.wrTriPeriodLow d) :=
  fun _ => decodeWord_writeWord _ d

theorem wrTriLengthHigh (d : Byte) : Statement (.wrTriLengthHigh d) :=
  fun _ => decodeWord_writeWord _ d

theorem wrNoiseControl (d : Byte) : Statement (.wrNoiseControl d) :=
  fun _ => decodeWord_writeWord _ d

theorem wrUnused400D (d : Byte) : Statement (.wrUnused400D d) :=
  fun _ => decodeWord_writeWord _ d

theorem wrNoiseMode (d : Byte) : Statement (.wrNoiseMode d) :=
  fun _ => decodeWord_writeWord _ d

theorem wrNoiseLength (d : Byte) : Statement (.wrNoiseLength d) :=
  fun _ => decodeWord_writeWord _ d

theorem wrDmcControl (d : Byte) : Statement (.wrDmcControl d) :=
  fun _ => decodeWord_writeWord _ d

theorem wrDmcLoad (d : Byte) : Statement (.wrDmcLoad d) :=
  fun _ => decodeWord_writeWord _ d

theorem wrDmcAddress (d : Byte) : Statement (.wrDmcAddress d) :=
  fun _ => decodeWord_writeWord _ d

theorem wrDmcLength (d : Byte) : Statement (.wrDmcLength d) :=
  fun _ => decodeWord_writeWord _ d

theorem wrNotApu4014 (d : Byte) : Statement (.wrNotApu4014 d) :=
  fun _ => decodeWord_writeWord _ d

theorem wrStatus (d : Byte) : Statement (.wrStatus d) :=
  fun _ => decodeWord_writeWord _ d

theorem wrNotApu4016 (d : Byte) : Statement (.wrNotApu4016 d) :=
  fun _ => decodeWord_writeWord _ d

theorem wrFrameCounter (d : Byte) : Statement (.wrFrameCounter d) :=
  fun _ => decodeWord_writeWord _ d

theorem wrFdsWaveRam (i : BitVec 6) (d : Byte) : Statement (.wrFdsWaveRam i d) :=
  fun _ => (decodeWord_writeWord _ d).trans (congrArg _ (decodeWrite_waveRam i d))

theorem wrFdsVolumeEnv (d : Byte) : Statement (.wrFdsVolumeEnv d) :=
  fun _ => decodeWord_writeWord _ d

theorem wrFdsUnused4081 (d : Byte) : Statement (.wrFdsUnused4081 d) :=
  fun _ => decodeWord_writeWord _ d

theorem wrFdsWaveFreqLow (d : Byte) : Statement (.wrFdsWaveFreqLow d) :=
  fun _ => decodeWord_writeWord _ d

theorem wrFdsWaveFreqHigh (d : Byte) : Statement (.wrFdsWaveFreqHigh d) :=
  fun _ => decodeWord_writeWord _ d

theorem wrFdsModEnv (d : Byte) : Statement (.wrFdsModEnv d) :=
  fun _ => decodeWord_writeWord _ d

theorem wrFdsModPosition (d : Byte) : Statement (.wrFdsModPosition d) :=
  fun _ => decodeWord_writeWord _ d

theorem wrFdsModFreqLow (d : Byte) : Statement (.wrFdsModFreqLow d) :=
  fun _ => decodeWord_writeWord _ d

theorem wrFdsModFreqHigh (d : Byte) : Statement (.wrFdsModFreqHigh d) :=
  fun _ => decodeWord_writeWord _ d

theorem wrFdsModTable (d : Byte) : Statement (.wrFdsModTable d) :=
  fun _ => decodeWord_writeWord _ d

theorem wrFdsWaveConfig (d : Byte) : Statement (.wrFdsWaveConfig d) :=
  fun _ => decodeWord_writeWord _ d

theorem wrFdsMasterSpeed (d : Byte) : Statement (.wrFdsMasterSpeed d) :=
  fun _ => decodeWord_writeWord _ d

theorem wrN163Data (d : Byte) : Statement (.wrN163Data d) :=
  fun _ => decodeWord_writeWord _ d

theorem wrMmc5Low (i : BitVec 4) (d : Byte) : Statement (.wrMmc5Low i d) :=
  fun _ => (decodeWord_writeWord _ d).trans (congrArg _ (decodeWrite_mmc5Low i d))

theorem wrMmc5Mid (i : BitVec 2) (d : Byte) : Statement (.wrMmc5Mid i d) :=
  fun _ => (decodeWord_writeWord _ d).trans (congrArg _ (decodeWrite_mmc5Mid i d))

theorem wrMmc5High (i : BitVec 1) (d : Byte) : Statement (.wrMmc5High i d) :=
  fun _ => (decodeWord_writeWord _ d).trans (congrArg _ (decodeWrite_mmc5High i d))

theorem wrVrc6Pulse1 (i : BitVec 2) (d : Byte) : Statement (.wrVrc6Pulse1 i d) :=
  fun _ => (decodeWord_writeWord _ d).trans (congrArg _ (decodeWrite_vrc6Pulse1 i d))

theorem wrVrc7Address (d : Byte) : Statement (.wrVrc7Address d) :=
  fun _ => decodeWord_writeWord _ d

theorem wrVrc7Data (d : Byte) : Statement (.wrVrc7Data d) :=
  fun _ => decodeWord_writeWord _ d

theorem wrVrc6Pulse2 (i : BitVec 1) (d : Byte) : Statement (.wrVrc6Pulse2 i d) :=
  fun _ => (decodeWord_writeWord _ d).trans (congrArg _ (decodeWrite_vrc6Pulse2 i d))

theorem wrVrc6Pulse2Top (d : Byte) : Statement (.wrVrc6Pulse2Top d) :=
  fun _ => decodeWord_writeWord _ d

theorem wrVrc6Saw (i : BitVec 1) (d : Byte) : Statement (.wrVrc6Saw i d) :=
  fun _ => (decodeWord_writeWord _ d).trans (congrArg _ (decodeWrite_vrc6Saw i d))

theorem wrVrc6SawTop (d : Byte) : Statement (.wrVrc6SawTop d) :=
  fun _ => decodeWord_writeWord _ d

theorem wrS5bAddress (d : Byte) : Statement (.wrS5bAddress d) :=
  fun _ => decodeWord_writeWord _ d

theorem wrS5bData (d : Byte) : Statement (.wrS5bData d) :=
  fun _ => decodeWord_writeWord _ d

theorem wrN163Address (d : Byte) : Statement (.wrN163Address d) :=
  fun _ => decodeWord_writeWord _ d

theorem wrOther (a : Addr) (d : Byte) : Statement (.wrOther a d) :=
  fun h => (decodeWord_writeWord a d).trans (congrArg _ (decodeWrite_other a d (by simpa [Instr.wf] using h)))

theorem rdStatus : Statement .rdStatus :=
  fun _ => rfl

theorem rdOther (a : Addr) : Statement (.rdOther a) :=
  fun h => (decodeWord_readWord a).trans (congrArg _ (if_neg (fun e => by subst e; exact absurd h (by decide))))

theorem recP1 : Statement .recP1 :=
  fun _ => rfl

theorem recP2 : Statement .recP2 :=
  fun _ => rfl

theorem recTri : Statement .recTri :=
  fun _ => rfl

theorem recNoi : Statement .recNoi :=
  fun _ => rfl

theorem recDmc : Statement .recDmc :=
  fun _ => rfl

theorem recFds : Statement .recFds :=
  fun _ => rfl

theorem recOther (id : Byte) : Statement (.recOther id) :=
  fun h => (decodeWord_recordWord id).trans (congrArg _ (decodeRecord_other id (by simpa [Instr.wf] using h)))

theorem mnop : Statement .mnop :=
  fun _ => rfl

theorem madd1 : Statement .madd1 :=
  fun _ => rfl

theorem madd2 : Statement .madd2 :=
  fun _ => rfl

theorem madd4 : Statement .madd4 :=
  fun _ => rfl

theorem mrst : Statement .mrst :=
  fun _ => rfl

theorem msub4 : Statement .msub4 :=
  fun _ => rfl

theorem msub2 : Statement .msub2 :=
  fun _ => rfl

theorem msub1 : Statement .msub1 :=
  fun _ => rfl

end Sys2Proof.Laws.RoundTrip
end

