-- ==== Sys2Proof/Laws/Record.lean ====
section
/-! SUPPORT. What RECORD can do, said once: one push onto one channel's buffers, the count of draws, and for the FDS the
second filter stage. -/

namespace Sys2Proof.Machine

/-- The debug filter changes the count of draws only. -/
theorem highPassed_state (ch : Channel) (v : Rat) (s : State) :
    (highPassed ch v s).2 = { s with host := { s.host with
      draws := if s.params.debugHighpass then s.host.draws + 1 else s.host.draws } } := by
  simp only [highPassed]
  split <;> rfl

/-- With the debug filter off the level is recorded as it is. -/
theorem highPassed_off (ch : Channel) (v : Rat) (s : State) (h : s.params.debugHighpass = false) :
    highPassed ch v s = (v, s) := by
  rw [highPassed, if_neg (by simp [h])]

/-- RECORD of a 2A03 channel: one push, and the draw of the debug filter if it is on. -/
theorem recordChannel_eq (ch : Channel) (s : State) :
    ∃ v, recordChannel ch s =
      { s with
        channels := s.channels.set ch ((s.channels.get ch).push v (edgeOf ch s)),
        host := { s.host with draws := if s.params.debugHighpass then s.host.draws + 1 else s.host.draws } } := by
  refine ⟨Config.sampleQuantize (highPassed ch (level ch s) s).1, ?_⟩
  have he : ∀ n, edgeOf ch { s with host := { s.host with draws := n } } = edgeOf ch s := by
    intro n; cases ch <;> rfl
  simp only [recordChannel, pushSample, highPassed_state, he]

/-- RECORD of the FDS channel: the second filter stage, then as above. -/
theorem recordFds_eq (s : State) :
    ∃ v, recordFds s =
      { s with
        fds := { s.fds with y2 := lowPass s.params.filterA2 s.fds.y2 s.fds.filtered },
        channels := s.channels.set .fds ((s.channels.get .fds).push v s.fds.edge),
        host := { s.host with draws := if s.params.debugHighpass then s.host.draws + 1 else s.host.draws } } := by
  refine ⟨Config.sampleQuantize (highPassed .fds (fdsStage2 s).fds.y2 (fdsStage2 s)).1, ?_⟩
  simp only [recordFds, pushSample, highPassed_state, edgeOf]; rfl

/-- A push leaves every mute flag. -/
theorem isMuted_set_push (s : State) (ch k : Channel) (v : Sample) (e : Bool) :
    ((s.channels.set ch ((s.channels.get ch).push v e)).get k).muted = (s.channels.get k).muted := by
  by_cases h : k = ch
  · subst h; simp
  · rw [Channels.get_set_ne _ _ h]

end Sys2Proof.Machine
end

