-- ==== Sys2Proof/Laws/Renderer.lean ====
section
/-! SUPPORT. What the encoder of the host model can do, said once each: no call loses, adds or reorders what was pushed,
a step of it ends where nothing more is to be done, and a finished encoder holds nothing back. -/

namespace Sys2Proof.Machine

/-! ### Pushing -/

@[simp] theorem Encoder.pushVideo_allVideo (v : VideoFrame) (e : Encoder) :
    (e.pushVideo v).allVideo = e.allVideo ++ [v] := by simp [pushVideo, allVideo]

@[simp] theorem Encoder.pushVideo_allAudio (v : VideoFrame) (e : Encoder) :
    (e.pushVideo v).allAudio = e.allAudio := rfl

@[simp] theorem Encoder.pushAudio_allAudio (batch : List AudioSample) (e : Encoder) :
    (e.pushAudio batch).allAudio = e.allAudio ++ batch := by simp [pushAudio, allAudio]

@[simp] theorem Encoder.pushAudio_allVideo (batch : List AudioSample) (e : Encoder) :
    (e.pushAudio batch).allVideo = e.allVideo := rfl

/-! ### Muxing one packet -/

@[simp] theorem Encoder.muxAudio_allAudio (e : Encoder) : e.muxAudio.allAudio = e.allAudio := by
  simp [muxAudio, allAudio, Packet.samples]

@[simp] theorem Encoder.muxAudio_allVideo (e : Encoder) : e.muxAudio.allVideo = e.allVideo := by
  simp [muxAudio, allVideo, Packet.frames]

@[simp] theorem Encoder.muxVideo_allAudio (e : Encoder) : e.muxVideo.allAudio = e.allAudio := by
  rw [muxVideo]; split <;> simp [allAudio, Packet.samples]

@[simp] theorem Encoder.muxVideo_allVideo (e : Encoder) : e.muxVideo.allVideo = e.allVideo := by
  rw [muxVideo]; split
  · rfl
  · rename_i h; simp [allVideo, Packet.frames, h]

/-- Muxing audio makes what is buffered less, if there is audio. -/
theorem Encoder.muxAudio_buffered (e : Encoder) (h : e.audio ≠ []) : e.muxAudio.buffered < e.buffered := by
  have := List.length_pos_iff.2 h
  simp only [muxAudio, buffered, frameSize, List.length_drop]
  omega

/-- Muxing video makes what is buffered less, if there is video. -/
theorem Encoder.muxVideo_buffered (e : Encoder) (h : e.video ≠ []) : e.muxVideo.buffered < e.buffered := by
  rw [muxVideo]
  split
  · contradiction
  · rename_i hv; simp [buffered, hv]

/-! ### Turns -/

@[simp] theorem Encoder.turns_allAudio (next : Encoder → EncoderAction) (n : Nat) (e : Encoder) :
    (turns next n e).allAudio = e.allAudio := by
  induction n generalizing e with
  | zero => rfl
  | succ n ih => rw [turns]; split <;> simp [ih]

@[simp] theorem Encoder.turns_allVideo (next : Encoder → EncoderAction) (n : Nat) (e : Encoder) :
    (turns next n e).allVideo = e.allVideo := by
  induction n generalizing e with
  | zero => rfl
  | succ n ih => rw [turns]; split <;> simp [ih]

/-- A choice of turns that only asks for what there is ends in a stop, within as many turns as there is buffered. -/
theorem Encoder.turns_stop (next : Encoder → EncoderAction)
    (ha : ∀ e : Encoder, next e = .muxAudio → e.audio ≠ []) (hv : ∀ e : Encoder, next e = .muxVideo → e.video ≠ [])
    (n : Nat) (e : Encoder) (h : e.buffered ≤ n) : next (turns next n e) = .stop := by
  induction n generalizing e with
  | zero =>
    rw [turns]
    have h0 : e.audio = [] ∧ e.video = [] := by simpa [buffered] using h
    cases hn : next e with
    | muxAudio => exact absurd h0.1 (ha e hn)
    | muxVideo => exact absurd h0.2 (hv e hn)
    | stop => rfl
  | succ n ih =>
    rw [turns]
    split
    · rename_i hn; exact ih _ (by have := e.muxAudio_buffered (ha e hn); omega)
    · rename_i hn; exact ih _ (by have := e.muxVideo_buffered (hv e hn); omega)
    · assumption

/-- The choice while stepping asks only for what there is. -/
theorem Encoder.next_audio (e : Encoder) (h : e.next = .muxAudio) : e.audio ≠ [] := by
  intro h0
  simp [next, encoderNext, frameSize, h0] at h
  split at h <;> simp at h

/-- The choice while stepping asks only for what there is. -/
theorem Encoder.next_video (e : Encoder) (h : e.next = .muxVideo) : e.video ≠ [] := by
  intro h0
  simp [next, encoderNext, h0] at h
  split at h <;> simp at h

/-- The choice at the end of the stream stops only when nothing is buffered. -/
theorem Encoder.flushNext_stop (e : Encoder) (h : e.flushNext = .stop) : e.audio = [] ∧ e.video = [] := by
  revert h
  rw [flushNext]
  split <;> simp_all
  split <;> simp

/-- The choice at the end of the stream asks only for what there is. -/
theorem Encoder.flushNext_audio (e : Encoder) (h : e.flushNext = .muxAudio) : e.audio ≠ [] := by
  intro h0
  rw [flushNext, h0] at h
  split at h <;> simp_all

/-- The choice at the end of the stream asks only for what there is. -/
theorem Encoder.flushNext_video (e : Encoder) (h : e.flushNext = .muxVideo) : e.video ≠ [] := by
  intro h0
  rw [flushNext, h0] at h
  split at h <;> simp_all

/-! ### The calls -/

@[simp] theorem Encoder.stepEncoding_allAudio (e : Encoder) : e.stepEncoding.allAudio = e.allAudio :=
  turns_allAudio _ _ _

@[simp] theorem Encoder.stepEncoding_allVideo (e : Encoder) : e.stepEncoding.allVideo = e.allVideo :=
  turns_allVideo _ _ _

/-- An encoding step goes on until the encoder stops draining. -/
theorem Encoder.stepEncoding_next (e : Encoder) : e.stepEncoding.next = .stop :=
  turns_stop _ next_audio next_video _ _ (Nat.le_refl _)

@[simp] theorem Encoder.finish_allAudio (e : Encoder) : e.finish.allAudio = e.allAudio :=
  turns_allAudio flushNext e.buffered { e with ended := true }

@[simp] theorem Encoder.finish_allVideo (e : Encoder) : e.finish.allVideo = e.allVideo :=
  turns_allVideo flushNext e.buffered { e with ended := true }

/-- Turns leave the mark of the end of the stream as it is. -/
theorem Encoder.turns_ended (next : Encoder → EncoderAction) (n : Nat) (e : Encoder) :
    (turns next n e).ended = e.ended := by
  induction n generalizing e with
  | zero => rfl
  | succ n ih =>
    rw [turns]
    split
    · rw [ih]; rfl
    · rw [ih, muxVideo]; split <;> rfl
    · rfl

@[simp] theorem Encoder.finish_ended (e : Encoder) : e.finish.ended = true :=
  turns_ended flushNext e.buffered { e with ended := true }

/-- A finished encoder holds nothing back and has written its trailer. -/
theorem Encoder.finish_buffered (e : Encoder) :
    e.finish.audio = [] ∧ e.finish.video = [] ∧ e.finish.trailer = true := by
  have h := flushNext_stop _ (turns_stop _ flushNext_audio flushNext_video e.buffered
    { e with ended := true } (Nat.le_refl _))
  exact ⟨h.1, h.2, rfl⟩

/-! ### What a Stepping frame pushes -/

@[simp] theorem encodeFrame_allVideo (n : Nat) (c : Channels) (batch : List Sample) (e : Encoder) :
    (encodeFrame n c batch e).allVideo = e.allVideo ++ [{ slot := n, capture := c }] := by simp [encodeFrame]

@[simp] theorem encodeFrame_allAudio (n : Nat) (c : Channels) (batch : List Sample) (e : Encoder) :
    (encodeFrame n c batch e).allAudio = e.allAudio ++ batch.map (fun v => { slot := n, value := v }) := by
  simp [encodeFrame]

end Sys2Proof.Machine
end

