-- ==== Sys2Proof/Tests/Slice0.lean ====
section
/-! SUPPORT. The model's own tests. Expected values are worked from the spec's encodings (spec/30_encoding.md and
spec/opcode_table.json) and from the vectors of spec/95_test_vectors.md, never from a run of the model; and one named
witness for each statement with hypotheses, with a boundary value for each of its clauses. -/

namespace Sys2Proof.Tests

open Sys2Proof Sys2Proof.Machine

/-! ### Well-formedness: the check refuses an ill-formed term of each fallback row -/

theorem test_wf_refuses_named_writes :
    (Instr.wrOther 0x4000#16 0#8).wf = false ∧ (Instr.wrOther 0x4017#16 0#8).wf = false ∧
    (Instr.wrOther 0x4040#16 0#8).wf = false ∧ (Instr.wrOther 0x408A#16 0#8).wf = false ∧
    (Instr.wrOther 0x5015#16 0#8).wf = false ∧ (Instr.wrOther 0xF800#16 0#8).wf = false ∧
    (Instr.wrOther 0x4018#16 0#8).wf = true ∧ (Instr.wrOther 0x408B#16 0#8).wf = true := by decide

theorem test_wf_refuses_status_read :
    (Instr.rdOther 0x4015#16).wf = false ∧ (Instr.rdOther 0x4016#16).wf = true := by decide

theorem test_wf_refuses_named_channels :
    (Instr.recOther 0#8).wf = false ∧ (Instr.recOther 5#8).wf = false ∧ (Instr.recOther 6#8).wf = true ∧
    (Instr.recOther 0xFF#8).wf = true := by decide

/-! ### Decoding: a word for every constructor, written out from rules R300, R302, R310 to R314 and R320 -/

theorem test_decode_pulse :
    decodeWord 0x14000BF#26 = .ok (.wrPulse1Control 0xBF#8) ∧
    decodeWord 0x140019A#26 = .ok (.wrPulse1Sweep 0x9A#8) ∧
    decodeWord 0x14002FD#26 = .ok (.wrPulse1PeriodLow 0xFD#8) ∧
    decodeWord 0x1400308#26 = .ok (.wrPulse1LengthHigh 0x08#8) ∧
    decodeWord 0x1400401#26 = .ok (.wrPulse2Control 0x01#8) ∧
    decodeWord 0x1400502#26 = .ok (.wrPulse2Sweep 0x02#8) ∧
    decodeWord 0x1400603#26 = .ok (.wrPulse2PeriodLow 0x03#8) ∧
    decodeWord 0x1400704#26 = .ok (.wrPulse2LengthHigh 0x04#8) := by decide

theorem test_decode_triangle_noise :
    decodeWord 0x1400881#26 = .ok (.wrTriLinear 0x81#8) ∧
    decodeWord 0x1400900#26 = .ok (.wrUnused4009 0#8) ∧
    decodeWord 0x1400A7F#26 = .ok (.wrTriPeriodLow 0x7F#8) ∧
    decodeWord 0x1400BF8#26 = .ok (.wrTriLengthHigh 0xF8#8) ∧
    decodeWord 0x1400C3F#26 = .ok (.wrNoiseControl 0x3F#8) ∧
    decodeWord 0x1400D80#26 = .ok (.wrUnused400D 0x80#8) ∧
    decodeWord 0x1400E85#26 = .ok (.wrNoiseMode 0x85#8) ∧
    decodeWord 0x1400F18#26 = .ok (.wrNoiseLength 0x18#8) := by decide

theorem test_decode_dmc_status :
    decodeWord 0x140108F#26 = .ok (.wrDmcControl 0x8F#8) ∧
    decodeWord 0x1401140#26 = .ok (.wrDmcLoad 0x40#8) ∧
    decodeWord 0x1401210#26 = .ok (.wrDmcAddress 0x10#8) ∧
    decodeWord 0x1401302#26 = .ok (.wrDmcLength 0x02#8) ∧
    decodeWord 0x1401400#26 = .ok (.wrNotApu4014 0#8) ∧
    decodeWord 0x1401510#26 = .ok (.wrStatus 0x10#8) ∧
    decodeWord 0x1401601#26 = .ok (.wrNotApu4016 0x01#8) ∧
    decodeWord 0x14017C0#26 = .ok (.wrFrameCounter 0xC0#8) := by decide

theorem test_decode_fds :
    decodeWord 0x140400F#26 = .ok (.wrFdsWaveRam 0#6 0x0F#8) ∧
    decodeWord 0x1407F3F#26 = .ok (.wrFdsWaveRam 63#6 0x3F#8) ∧
    decodeWord 0x14080A0#26 = .ok (.wrFdsVolumeEnv 0xA0#8) ∧
    decodeWord 0x1408101#26 = .ok (.wrFdsUnused4081 0x01#8) ∧
    decodeWord 0x1408240#26 = .ok (.wrFdsWaveFreqLow 0x40#8) ∧
    decodeWord 0x14083C3#26 = .ok (.wrFdsWaveFreqHigh 0xC3#8) ∧
    decodeWord 0x1408482#26 = .ok (.wrFdsModEnv 0x82#8) ∧
    decodeWord 0x14085C0#26 = .ok (.wrFdsModPosition 0xC0#8) ∧
    decodeWord 0x1408680#26 = .ok (.wrFdsModFreqLow 0x80#8) ∧
    decodeWord 0x1408708#26 = .ok (.wrFdsModFreqHigh 0x08#8) ∧
    decodeWord 0x140880D#26 = .ok (.wrFdsModTable 0x0D#8) ∧
    decodeWord 0x1408983#26 = .ok (.wrFdsWaveConfig 0x83#8) ∧
    decodeWord 0x1408AE8#26 = .ok (.wrFdsMasterSpeed 0xE8#8) := by decide

theorem test_decode_expansion :
    decodeWord 0x1480011#26 = .ok (.wrN163Data 0x11#8) ∧
    decodeWord 0x1500F22#26 = .ok (.wrMmc5Low 15#4 0x22#8) ∧
    decodeWord 0x1501333#26 = .ok (.wrMmc5Mid 3#2 0x33#8) ∧
    decodeWord 0x1501544#26 = .ok (.wrMmc5High 1#1 0x44#8) ∧
    decodeWord 0x1900355#26 = .ok (.wrVrc6Pulse1 3#2 0x55#8) ∧
    decodeWord 0x1901066#26 = .ok (.wrVrc7Address 0x66#8) ∧
    decodeWord 0x1903077#26 = .ok (.wrVrc7Data 0x77#8) ∧
    decodeWord 0x1A00188#26 = .ok (.wrVrc6Pulse2 1#1 0x88#8) ∧
    decodeWord 0x1A00299#26 = .ok (.wrVrc6Pulse2Top 0x99#8) ∧
    decodeWord 0x1B001AA#26 = .ok (.wrVrc6Saw 1#1 0xAA#8) ∧
    decodeWord 0x1B002BB#26 = .ok (.wrVrc6SawTop 0xBB#8) ∧
    decodeWord 0x1C000CC#26 = .ok (.wrS5bAddress 0xCC#8) ∧
    decodeWord 0x1E000DD#26 = .ok (.wrS5bData 0xDD#8) ∧
    decodeWord 0x1F800EE#26 = .ok (.wrN163Address 0xEE#8) := by decide

theorem test_decode_other :
    decodeWord 0x0000000#26 = .ok .tick ∧ decodeWord 0x1600000#26 = .ok (.wrOther 0x6000#16 0#8) ∧
    decodeWord 0x2401500#26 = .ok .rdStatus ∧ decodeWord 0x2409000#26 = .ok (.rdOther 0x4090#16) ∧
    decodeWord 0x3000000#26 = .ok .recP1 ∧ decodeWord 0x3000001#26 = .ok .recP2 ∧
    decodeWord 0x3000002#26 = .ok .recTri ∧ decodeWord 0x3000003#26 = .ok .recNoi ∧
    decodeWord 0x3000004#26 = .ok .recDmc ∧ decodeWord 0x3000005#26 = .ok .recFds ∧
    decodeWord 0x3000006#26 = .ok (.recOther 6#8) ∧ decodeWord 0x30000FF#26 = .ok (.recOther 0xFF#8) := by decide

theorem test_decode_commands :
    [0#8, 1#8, 2#8, 3#8, 4#8, 5#8, 6#8, 7#8].map (fun c => (decodeCommand c).toOption) =
      [some .mnop, some .madd1, some .madd2, some .madd4, some .mrst, some .msub4, some .msub2, some .msub1] ∧
    decodeCommand 8#8 = .error .badModCommand := by decide

/-- V-ENC: the ill-formed words, and that the check of rule R301 comes before the others (rule R904). -/
theorem test_decode_ill_formed :
    [0x0000001#26, 0x0010000#26, 0x2401501#26, 0x2409001#26, 0x3000105#26].map (fun w => (decodeWord w).toOption) =
      [none, none, none, none, none] := by decide

/-! ### Helpers -/

/-- The state an instruction leaves (every instruction answers one). -/
def after (i : Instr) (s : State) : State :=
  match exec i s with
  | .next t => t
  | .fault _ => s
  | .refused _ => s

/-- The state a step leaves. -/
def afterStep (s : State) : State :=
  match step s with
  | .next t => t
  | .fault _ => s
  | .refused _ => s

/-- Power-up with the debug filter off and buffers of four entries, so that nothing open is read. -/
def start : State :=
  let b : ChannelBuf := { muted := false, samples := [0, 0, 0, 0], edges := [false, false, false, false], cursor := 3 }
  { State.reset with
    params := { waveSampleMask := 0x0F#6, waveHaltResetsPhase := false, modTableIndex := .position,
                modTableWriteModel := .twoEntriesWhileHalted, filterA1 := 1, filterA2 := 1 / 2,
                debugHighpass := false },
    channels := { p1 := b, p2 := b, tri := b, noi := b, dmc := b, fds := b } }

/-- `start` with the wave unit changed. -/
def withWave (w : FdsWave) : State := { start with fds := { start.fds with wave := w } }

/-- `start` with the modulator changed. -/
def withMod (m : FdsMod) : State := { start with fds := { start.fds with mod := m } }

/-- `start` with the DMC changed. -/
def withDmc (m : Dmc) : State := { start with apu := { start.apu with dmc := m } }

/-- `start` with the frame counter changed. -/
def withFrame (f : Frame) : State := { start with apu := { start.apu with frame := f } }

/-- `start` with operations pending. -/
def pending (ops : List OpWord) : State := issue ops start

/-! ### Register writes (V-PUL, V-TRI, V-NOI, V-DMC, V-FDS-R, V-STA) -/

theorem test_pulse_control :
    let p := (after (.wrPulse1Control 0xBF#8) start).apu.pulse1
    p.duty = 2 ∧ p.halt = true ∧ p.constVol = true ∧ p.vol = 15 := by decide

theorem test_pulse_sweep :
    let p := (after (.wrPulse2Sweep 0x9A#8) start).apu.pulse2
    p.sweepEnable = true ∧ p.sweepPeriod = 1 ∧ p.sweepNegate = true ∧ p.sweepShift = 2 ∧ p.sweepReload = true := by
  decide

theorem test_pulse_period_low :
    (pulsePeriodLow 0x00#8 { Pulse.reset with period := 0x1FD }).period = 0x100 := by decide

theorem test_pulse_length_high :
    (pulseLengthHigh 0xF9#8 { Pulse.reset with enabled := true, seq := 5 }) =
      { Pulse.reset with
        enabled := true, seq := 0, length := 30, period := 0x100,
        env := { Envelope.reset with start := true } } ∧
    (pulseLengthHigh 0x08#8 Pulse.reset).length = 0 := by decide

theorem test_triangle_writes :
    (triLinear 0x81#8 Triangle.reset).control = true ∧ (triLinear 0x81#8 Triangle.reset).linearReloadValue = 1 ∧
    (triLengthHigh 0xF8#8 { Triangle.reset with enabled := true, seq := 9 }).length = 30 ∧
    (triLengthHigh 0xF8#8 { Triangle.reset with enabled := true, seq := 9 }).seq = 9 := by decide

theorem test_noise_writes :
    (noiseMode 0x85#8 Noise.reset).mode = true ∧ (noiseMode 0x85#8 Noise.reset).periodIndex = 5 ∧
    (noiseLength 0x18#8 { Noise.reset with enabled := true }).length = 2 ∧
    (noiseControl 0x3F#8 Noise.reset).vol = 15 := by decide

theorem test_dmc_writes :
    (dmcControl 0x0F#8 { Dmc.reset with irqFlag := true }).irqFlag = false ∧
    (dmcControl 0x0F#8 Dmc.reset).rateIndex = 15 ∧ (dmcLoad 0xC0#8 Dmc.reset).level = 0x40 ∧
    (dmcRestart { Dmc.reset with sampleAddr := 0xFF }).curAddr = 0xFFC0 ∧
    (dmcRestart { Dmc.reset with sampleLen := 0xFF }).bytesRem = 4081 := by decide

theorem test_status_write :
    let s := withDmc { Dmc.reset with irqFlag := true, bytesRem := 3 }
    let t := after (.wrStatus 0x0E#8) { s with apu := { s.apu with pulse1 := { Pulse.reset with length := 10 } } }
    t.apu.pulse1.length = 0 ∧ t.apu.dmc.bytesRem = 0 ∧ t.apu.dmc.irqFlag = false ∧ t.apu.pulse2.enabled = true ∧
    t.apu.tri.enabled = true ∧ t.apu.noise.enabled = true := by decide

theorem test_status_starts_dmc :
    let t := after (.wrStatus 0x10#8) (withDmc { Dmc.reset with sampleAddr := 1, sampleLen := 1 })
    t.apu.dmc.curAddr = 0xC040 ∧ t.apu.dmc.bytesRem = 17 ∧ t.host.events = [] := by decide

/-- V-STA: lengths 10, 0, 5, 0, three bytes remaining and both flags set read as `0xD5`, bit 5 apart. -/
theorem test_status_read :
    let a : Apu :=
      { Apu.reset with
        pulse1 := { Pulse.reset with length := 10 }, tri := { Triangle.reset with length := 5 },
        dmc := { Dmc.reset with bytesRem := 3, irqFlag := true },
        frame := { Frame.reset with frameIrq := true } }
    statusByte a false = 0xD5 ∧ statusByte a true = 0xF5 ∧
    statusByte { a with frame := clearFrameIrq a.frame } false = 0x95 ∧
    (after .rdStatus { start with apu := a }).apu.frame.frameIrq = false ∧
    (after .rdStatus { start with apu := a }).apu.dmc.irqFlag = true := by decide

theorem test_frame_write :
    let f := (after (.wrFrameCounter 0xC0#8) (withFrame { Frame.reset with frameIrq := true })).apu.frame
    f = { mode := true, irqInhibit := true, count := 0, pending := 3, frameIrq := false } ∧
    frameDelay 1 = 4 := by decide

theorem test_wave_ram :
    let w := (after (.wrFdsWaveRam 63#6 0x3F#8) (withWave { FdsWave.reset with writeEnable := true })).fds.wave
    waveEntry w 63 = 0x0F ∧ waveEntry w 62 = 0 ∧
    waveEntry (after (.wrFdsWaveRam 0#6 0x0F#8) start).fds.wave 0 = 0 := by decide

theorem test_envelope_config :
    envConfig 0x80#8 { FdsEnv.reset with output := 20, timer := 5 } =
      { speed := 0, disable := true, increase := false, timer := 0, output := 0 } ∧
    (envConfig 0x00#8 { FdsEnv.reset with output := 20 }).output = 20 ∧
    (envConfig 0xBF#8 FdsEnv.reset).output = 63 := by decide

theorem test_wave_frequency :
    let w := (after (.wrFdsWaveFreqHigh 0xC3#8) start).fds.wave
    w.frequency = 0x0300 ∧ w.halt = true ∧ w.envHalt = true ∧ w.envHaltLatch = true ∧
    (after (.wrFdsWaveFreqHigh 0x3F#8) start).fds.wave.frequency = 0x0F00 ∧
    (after (.wrFdsWaveFreqHigh 0x3F#8) start).fds.wave.envHaltLatch = false ∧
    (after (.wrFdsWaveFreqLow 0x40#8) (withWave { FdsWave.reset with frequency := 0x0312 })).fds.wave.frequency
      = 0x0340 := by decide

theorem test_mod_frequency_high :
    (modFreqHigh 0x80#8 { FdsMod.reset with phase := 0x12ABCD }).phase = 0x120000 ∧
    (modFreqHigh 0x7F#8 { FdsMod.reset with phase := 0x12ABCD, halt := true }).phase = 0x12ABCD ∧
    (modFreqHigh 0x7F#8 { FdsMod.reset with halt := true }).frequency = 0xF00 ∧
    (after (.wrFdsModPosition 0xC0#8) start).fds.mod.position = 0x40 := by decide

theorem test_mod_table :
    let m := modTableWrite .twoEntriesWhileHalted 0x0D#8 { FdsMod.reset with halt := true, writePos := 62 }
    modEntry m 62 = 5 ∧ modEntry m 63 = 5 ∧ modEntry m 0 = 0 ∧ m.writePos = 0 ∧
    (modTableWrite .twoEntriesWhileHalted 0x03#8 { FdsMod.reset with writePos := 4 }).writePos = 4 := by decide

theorem test_wave_config :
    let t := after (.wrFdsWaveConfig 0x83#8) start
    t.fds.wave.writeEnable = true ∧ t.fds.wave.masterVolume = 3 ∧
    (after (.wrFdsMasterSpeed 0xE8#8) start).fds.masterSpeed = 232 := by decide

/-! ### Clocked units (V-PUL, V-TRI, V-NOI, V-DMC, V-FDS-E, V-FDS-M, V-FDS-Q, V-FDS-W) -/

theorem test_pulse_timer :
    let p := { Pulse.reset with period := 2 }
    [1, 2, 3, 4].map (fun k => (pulseTimer^[k] p).seq) = [7, 7, 7, 6] := by decide

/-- V-PUL: the outputs of duty 2 at the sequencer positions 0, 7, 6, 5, 4, 3, 2, 1. -/
theorem test_pulse_duty :
    [0, 7, 6, 5, 4, 3, 2, 1].map (fun q => pulseOut true
      { Pulse.reset with duty := 2, constVol := true, vol := 15, length := 254, period := 0x100, seq := q }) =
      [0, 0, 0, 0, 15, 15, 15, 15] := by decide

theorem test_sweep_target :
    let n : Pulse := { Pulse.reset with period := 0x100, sweepShift := 1, sweepNegate := true }
    sweepTarget true n = 0x7F ∧ sweepTarget false n = 0x80 ∧
    sweepTarget true { n with sweepShift := 0 } = -1 ∧
    sweepMuted true { Pulse.reset with period := 7 } = true ∧
    sweepMuted true { Pulse.reset with period := 0x555, sweepShift := 1 } = false ∧
    sweepMuted true { Pulse.reset with period := 0x556, sweepShift := 1 } = true := by decide

theorem test_sweep_half :
    let p : Pulse := { Pulse.reset with period := 0x100, sweepEnable := true, sweepShift := 1, sweepPeriod := 3 }
    (sweepHalf true p).period = 0x180 ∧ (sweepHalf true p).sweepDiv = 3 ∧
    (sweepHalf true { p with sweepShift := 0 }).period = 0x100 ∧
    (sweepHalf true { p with sweepDiv := 2, sweepReload := true, sweepPeriod := 5 }).sweepDiv = 5 := by decide

theorem test_envelope :
    let e : Envelope := { Envelope.reset with start := true }
    [1, 2, 16, 17, 18].map (fun k => ((envQuarter 0 false)^[k] e).decay) = [15, 14, 0, 0, 0] ∧
    (envQuarter 0 true Envelope.reset).decay = 15 := by decide

theorem test_triangle_units :
    [0, 15, 16, 20, 31].map (fun q => triOut { Triangle.reset with seq := q }) = [15, 0, 0, 4, 15] ∧
    [1, 2, 3, 4, 5].map (fun k => (linearQuarter^[k]
      { Triangle.reset with linearReloadValue := 3, linearReload := true }).linear) = [3, 2, 1, 0, 0] ∧
    (triTimer { Triangle.reset with length := 1, linear := 1, seq := 31 }).seq = 0 := by decide

theorem test_noise_lfsr :
    [1, 9, 15, 16].map (fun k => (lfsrStep false)^[k] 1#15) = [0x4000, 0x0040, 0x4001, 0x6000] ∧
    [9, 10, 15, 16].map (fun k => (lfsrStep true)^[k] 1#15) = [0x0040, 0x4020, 0x0201, 0x4100] := by decide

theorem test_dmc_output :
    let m : Dmc := { Dmc.reset with silence := false, shift := 0xFF, level := 120 }
    [1, 2, 3, 4, 8].map (fun k => (dmcOutputClock^[k] m).level) = [122, 124, 126, 126, 126] ∧
    (dmcOutputClock^[8] m).silence = true ∧ (dmcOutputClock^[8] m).bitsRem = 8 ∧
    [1, 2, 3, 8].map (fun k => (dmcOutputClock^[k] { m with shift := 0, level := 5 }).level) = [3, 1, 1, 1] := by
  decide

/-- V-DMC: the last byte of a sample, at `$FFFF`, with the host's byte there fixed. -/
theorem test_dmc_reader :
    let s := withDmc { Dmc.reset with curAddr := 0xFFFF, bytesRem := 1, irqEnable := true }
    let t := dmcReader { s with host := { s.host with memory := Memory.place [] 0xFFFF 0xA5 } }
    t.apu.dmc.curAddr = 0x8000 ∧ t.apu.dmc.bytesRem = 0 ∧ t.apu.dmc.irqFlag = true ∧ t.apu.dmc.buffer = 0xA5 ∧
    t.host.events = [.memRead 0xFFFF 0xA5] := by decide

theorem test_fds_envelope :
    (envClock 1 { FdsEnv.reset with increase := true, output := 31, timer := 7 }).output = 32 ∧
    (envClock 1 { FdsEnv.reset with increase := true, output := 32, timer := 7 }).output = 32 ∧
    (envClock 1 { FdsEnv.reset with output := 0, timer := 7 }).output = 0 ∧
    envPeriod 255 { FdsEnv.reset with speed := 63 } = 130560 := by decide

/-- V-FDS-M: each command from the positions `0x7E` and `0x01`. -/
theorem test_mod_commands :
    [Instr.mnop, .madd1, .madd2, .madd4, .mrst, .msub4, .msub2, .msub1].map (fun i =>
      ((after i (withMod { FdsMod.reset with position := 0x7E })).fds.mod.position,
        (after i (withMod { FdsMod.reset with position := 0x01 })).fds.mod.position)) =
      [(0x7E, 0x01), (0x7F, 0x02), (0x00, 0x03), (0x02, 0x05), (0x00, 0x00), (0x7A, 0x7D), (0x7C, 0x7F),
       (0x7D, 0x00)] := by decide

/-- V-FDS-M: a crossing executes the entry at the position, and moves the phase; a TICK runs it. -/
theorem test_mod_clock :
    let m := setModEntry { FdsMod.reset with phase := 0x00FFFF, frequency := 1, position := 3 } 3 2
    (afterStep { withMod m with host := { start.host with ops := [0x0000000#26] } }).fds.mod.position = 5 ∧
    (afterStep { withMod m with host := { start.host with ops := [0x0000000#26] } }).fds.mod.phase = 0x010000 ∧
    (afterStep { withMod { m with phase := 0x00FFFE } with
      host := { start.host with ops := [0x0000000#26] } }).fds.mod.position = 3 := by decide

/-- V-FDS-M: an entry of 8 faults the TICK, and the cycle is not counted. -/
theorem test_mod_fault :
    let t := after .tick (withMod (setModEntry { FdsMod.reset with phase := 0x00FFFF, frequency := 1 } 0 8))
    t.dev.faulted = true ∧ t.dev.cycle = 0 ∧ t.host.events = [.condition .badModCommand] := by decide

/-- V-FDS-Q: the spec's table of modulation quantities. -/
theorem test_mod_quantity :
    [modQ 0x00 63 4095, modQ 0x01 0 100, modQ 0x01 1 64, modQ 0x02 8 64, modQ 0x7F 1 64, modQ 0x7F 16 64,
     modQ 0x10 32 100, modQ 0x40 32 100, modQ 0x3F 63 4095, modQ 0x41 63 4095, modQ 0x40 63 4095,
     modQ 0x20 2 0x100, modQ 0x60 2 0x100, modQ 0x05 3 0x123, modQ 0x7B 3 0x123, modQ 0x3F 32 1,
     modQ 0x3F 1 0] =
    [0, 0, 2, 1, -1, -1, 50, 200, -512, 384, 256, 16, -16, 9, -5, 2, 0] := by decide

theorem test_wave_clock :
    (waveClock { Fds.reset with wave := { FdsWave.reset with phase := 0x3FFF80, frequency := 0x100 } }).wave.phase
      = 0x000080 ∧
    (waveClock { Fds.reset with
      wave := { FdsWave.reset with phase := 0x3FFFFF, frequency := 0xFFF },
      mod := { FdsMod.reset with position := 0x3F },
      modEnv := { FdsEnv.reset with output := 63 } }).wave.phase = 0x000DFE := by decide

/-- V-FDS-W: sample 15 at full volume under the four master volumes; and a volume of 40, capped at 32. -/
theorem test_fds_level :
    let f : Fds := { Fds.reset with
      wave := setWaveEntry FdsWave.reset 0 15, volEnv := { FdsEnv.reset with output := 32 } }
    fdsLevel f = 480 ∧ fdsLevel { f with wave := { f.wave with masterVolume := 1 } } = 320 ∧
    fdsLevel { f with wave := { f.wave with masterVolume := 2 } } = 240 ∧
    fdsLevel { f with wave := { f.wave with masterVolume := 3 } } = 192 ∧
    fdsLevel { f with wave := { f.wave with masterVolume := 1 }, volEnv := { f.volEnv with output := 40 } } = 320 := by
  decide +kernel

/-! ### TICK, RECORD and the host model -/

/-- P5: one TICK from power-up. -/
theorem test_tick :
    let t := afterStep (pending [0x0000000#26])
    t.dev.cycle = 1 ∧ t.apu.frame.count = 1 ∧ t.apu.pulse1.seq = 7 ∧ t.apu.noise.lfsr = 0x4000 ∧
    t.apu.noise.timer = 3 ∧ t.apu.dmc.bitsRem = 7 ∧ t.apu.dmc.timer = 427 ∧ t.host.index = 1 := by decide

/-- V-CH: a RECORD at the last place of a buffer of four wraps the cursor; stage 2 with `a2 = 0.5`. -/
theorem test_record :
    let t := after .recFds { start with fds := { start.fds with filtered := 200, y2 := 100 } }
    t.fds.y2 = 150 ∧ t.channels.fds.cursor = 0 ∧
    t.channels.fds.samples = [0, 0, 0, Config.sampleQuantize 150] ∧
    (after .recP1 start).channels.p1.cursor = 0 := by
  refine ⟨by decide +kernel, by decide, ?_, by decide⟩
  have h : lowPass (1 / 2) 100 200 = 150 := by norm_num [lowPass]
  change [0, 0, 0, Config.sampleQuantize (lowPass (1 / 2) 100 200)] = _
  rw [h]

/-- L1.5: the divisor at 60 of 180 is 3, and a sample is truncated toward zero. -/
theorem test_fade :
    fadeDivisor 180 60 = 3 ∧ fadeSample 180 60 (-100) = -33 ∧ fadeSample 180 7 (-100) = -4 := by decide

/-- L1.4: the loop of the spec's example, at distance 91, and its counter-example at distance 51. -/
theorem test_loop :
    let p : SongPosition := { ended := false, frame := 5, row := 0 }
    let q : SongPosition := { ended := false, frame := 250, row := 3 }
    let l : LoopState := { firstSeen := [(q, 100), (p, 10)], prev := some q, count := 0, window := none }
    (loopUpdate 101 p l).count = 1 ∧ (loopUpdate 101 p l).window = some (10, 91) ∧
    (loopUpdate 101 p { l with firstSeen := [(q, 100), (p, 50)] }).window = none := by decide

/-- A render of an NSF with the given program image, that stops after two loops. -/
def twoLoops (image : List Byte) : RenderConfig :=
  { nsf := { image := image, usesFds := true, init := [], nsfeDuration := none }, stop := .loops 2,
    fadeoutLength := 180, workRamBase := 0x0000, audioFramePred := 1 }

/-- L1.6 and L1.9: loop stops need a driver, and the failure reaches the caller; the FamiTracker driver's offset with the
FDS, and the position read from the four bytes there. -/
theorem test_renderer :
    (Renderer.reset.step (twoLoops [0, 1, 2]) .start).outcome = some (.error (.config .loopDetectionUnsupported)) ∧
    detectDriver [0xFF, 0x30, 0x43, 0x43, 0x46, 0x54] = some .occFamiTracker ∧
    positionAddress 0x0000 .famiTracker true = 0x0213 ∧
    positionAt 0x0213 { start with host := { start.host with
      memory := [(0x213, 0x00), (0x214, 0x07), (0x215, 0x05), (0x216, 0x01)] } } =
      { ended := false, frame := 5, row := 0 } ∧
    (songPosition 0x02 0x07 0x05 0x00).ended = true := by decide

/-- R802: the Priming frame runs the device, and what it recorded is discarded. -/
theorem test_priming :
    let f : FrameRun := [.operation 0x0000000#26, .operation 0x3000000#26, .takeSample]
    let r : Renderer := { Renderer.reset with phase := .priming, device := start }
    f.ticks = 1 ∧ (r.step (twoLoops []) (.frame f)).phase = .stepping ∧
    (r.step (twoLoops []) (.frame f)).device.dev.cycle = 1 ∧
    (r.step (twoLoops []) (.frame f)).device.channels = start.channels := by decide

/-- R804: a Stepping frame under its own slot, with the stop condition reached and no fade-out. -/
theorem test_stepping :
    let c : RenderConfig := { twoLoops [] with stop := .frames 1, fadeoutLength := 0 }
    let r : Renderer := { Renderer.reset with phase := .stepping, device := start }
    let t := r.step c (.frame [.operation 0x0000000#26, .takeSample])
    t.phase = .draining ∧ t.currentFrame = 1 ∧ t.encoder.allVideo.map (fun v => v.slot) = [1] ∧
    t.encoder.allAudio.map (fun v => v.slot) = [1] := by decide

/-- R820 and R805: two samples to an audio frame; audio first while its packets do not exceed the video's, then video,
then audio again; a last sample is flushed at the end. -/
theorem test_interleave :
    let e := ((Encoder.start 1).pushAudio ((List.replicate 5 0#16).map (fun v => { slot := 1, value := v }))).pushVideo
      { slot := 1, capture := start.channels }
    e.stepEncoding.muxed.map Packet.isAudio = [true, false, true] ∧ e.stepEncoding.audio.length = 1 ∧
    e.stepEncoding.finish.muxed.map (fun p => p.samples.length) = [2, 0, 2, 1] ∧
    e.stepEncoding.finish.audio = [] := by decide

/-! ### Witnesses: what meets the hypotheses of each statement, a boundary value for each clause -/

/-- `DecodeOfEncodeIsTheInstruction`, `EveryCodeHasOneMeaning`. -/
theorem test_witness_encoding :
    (Instr.wrOther 0xFFFF#16 0xFF#8).wf = true ∧ Instr.msub1.wf = true ∧
    decode (.op 0x1FFFFFF#26) = .ok (.wrOther 0xFFFF#16 0xFF#8) ∧ decode (.command 7#8) = .ok .msub1 := by decide

/-- `IllFormedWordsAndNoOthersAreRefusedAtDecode`: its premises for every word (`test_decode_ill_formed` has one of each
ill-formed kind, the decode tests the legal ones), and P5: an ill-formed TICK does not count a cycle. -/
theorem test_witness_ill_formed :
    (∀ w : OpWord, (pending [w]).host.ops = w :: [] ∧ (pending [w]).dev.faulted = false) ∧
    (afterStep (pending [0x0000001#26])).dev = { faulted := false, refused := true, cycle := 0 } :=
  ⟨fun _ => ⟨rfl, rfl⟩, by decide⟩

/-- `StepRunsTheDecodedInstruction`. -/
theorem test_witness_step :
    (pending [0x3000006#26, 0x0000000#26]).host.ops = 0x3000006#26 :: [0x0000000#26] ∧
    (pending [0x3000006#26, 0x0000000#26]).dev.faulted = false ∧
    decodeWord 0x3000006#26 = .ok (.recOther 6#8) := by decide

/-- `ModulatorClockRunsTheDecodedEntry`, both values of `MOD_TABLE_INDEX`: the last position and the last entry. -/
theorem test_witness_mod_index :
    ∀ k ∈ [ModTableIndex.position, .boundary],
      let s := withMod (setModEntry { FdsMod.reset with position := 0x7F, phase := 0x3FFFFF } 63 7)
      let t := { s with params := { s.params with modTableIndex := k } }
      t.params.modTableIndex = k ∧ modCommand t = 7 := by decide

/-- `ModulatorClockRunsTheDecodedEntry`, `BadCommandFaultsTheTickAndTheDeviceIsStuck`: halted; one short of a boundary;
at it, from the last entry to the first too; with the last command and the first entry that is none. -/
theorem test_witness_modulator :
    let m : FdsMod := { FdsMod.reset with phase := 0x3FFFFF, frequency := 1 }
    (withMod { m with halt := true }).fds.mod.halt = true ∧
    ((0x3FFFFE + 1) / 0x10000 = 0x3FFFFE / 0x10000 ∧ m.halt = false) ∧
    (m.phase.toNat / 0x10000 < (m.phase.toNat + m.frequency.toNat) / 0x10000) ∧
    (modCommand (withMod (setModEntry m 0 7))).toNat < 8 ∧ 8 ≤ (modCommand (withMod (setModEntry m 0 8))).toNat := by
  decide

/-- `BadCommandFaultsTheTickAndTheDeviceIsStuck`, the second clause; `MarksAreNeverCleared`. -/
theorem test_witness_stuck :
    let s : State := { pending [0x0000000#26] with dev := { faulted := true, refused := true, cycle := 7 } }
    s.host.ops = 0x0000000#26 :: [] ∧ s.dev.faulted = true ∧ s.dev.refused = true ∧
    (step s = .next (s.tookOperation []) ∧ (s.tookOperation []).dev.cycle = 7) :=
  ⟨rfl, rfl, rfl, rfl, rfl⟩

/-- Every entry of the table at power-up is a command. -/
theorem test_witness_commands_legal : CommandsLegal start.fds.mod := by
  intro i
  simp [start, State.reset, Fds.reset, FdsMod.reset, modEntry]

/-- `BadCommandFaultsTheTickAndTheDeviceIsStuck`, the third clause. -/
theorem test_witness_no_fault :
    CommandsLegal (pending [0x2401500#26]).fds.mod ∧ (pending [0x2401500#26]).dev.faulted = false ∧
    ∃ t, step (pending [0x2401500#26]) = .next t :=
  ⟨test_witness_commands_legal, rfl, _, rfl⟩

/-- `UndecodedWritesAndIgnoredBitsHaveNoEffect`, `ExpansionWritesAreRefused`: the ends of every range of rule R206. -/
theorem test_witness_addresses :
    [0x0000#16, 0x3FFF#16, 0x4018#16, 0x403F#16, 0x408B#16, 0x47FF#16, 0x4801#16, 0x4FFF#16, 0x5016#16, 0x8FFF#16,
      0x9004#16, 0xA003#16, 0xB003#16, 0xFFFF#16].any namedWriteAddress = false ∧
    [0x4800#16, 0x5000#16, 0x500F#16, 0x5010#16, 0x5013#16, 0x5014#16, 0x5015#16, 0x9000#16, 0x9003#16, 0x9010#16,
      0x9030#16, 0xA000#16, 0xA001#16, 0xA002#16, 0xB000#16, 0xB001#16, 0xB002#16, 0xC000#16, 0xE000#16,
      0xF800#16].all namedWriteAddress = true := by decide

/-- `OtherReadsAndRecordsAreRefused`. -/
theorem test_witness_other_reads :
    (0x4014#16).toNat ≠ 0x4015 ∧ (0x4016#16).toNat ≠ 0x4015 ∧ 6 ≤ (6#8).toNat ∧ 6 ≤ (0xFF#8).toNat := by decide

/-- `PulseSequencerPeriod`, `EnvelopeDecaysOnePerDividerPeriod`, `TriangleSequencerAndLinearCounter`, `NoiseLfsr`, and the
timer clause of `DmcOutputUnit`: a timer at 0 with the first and the last count of its period, and a timer at 1. -/
theorem test_witness_dividers :
    ({ Pulse.reset with period := 0x7FF } : Pulse).timer = 0 ∧ ({ Envelope.reset with start := true }).start = true ∧
    ({ Triangle.reset with period := 0x7FF } : Triangle).timer = 0 ∧
    (∀ c ∈ [false, true], ({ Triangle.reset with linearReload := true, control := c } : Triangle).linearReload = true ∧
      ({ Triangle.reset with linearReload := true, control := c } : Triangle).control = c) ∧
    Noise.reset.timer = 0 ∧ Noise.reset.lfsr ≠ 0 ∧
    (2047 ≤ ({ Pulse.reset with period := 0x7FF } : Pulse).period.toNat ∧ 0 ≤ Pulse.reset.period.toNat) ∧
    2047 ≤ ({ Triangle.reset with period := 0x7FF } : Triangle).period.toNat ∧
    3 < noisePeriodTable.getD Noise.reset.periodIndex.toNat 0 ∧
    ({ Pulse.reset with timer := 1 } : Pulse).timer ≠ 0 ∧ ({ Triangle.reset with timer := 1 } : Triangle).timer ≠ 0 ∧
    ({ Noise.reset with timer := 1 } : Noise).timer ≠ 0 ∧ ({ Dmc.reset with timer := 1 } : Dmc).timer ≠ 0 := by decide

/-- `SweepTargetAndMuting`, `SweepHalfFrame`: a sweep that fires, one that does not, and both divider cases. -/
theorem test_witness_sweep :
    let p : Pulse := { Pulse.reset with period := 8, sweepEnable := true, sweepShift := 1, sweepNegate := true }
    (p.sweepDiv = 0 ∧ p.sweepEnable = true ∧ p.sweepShift ≠ 0 ∧ sweepMuted true p = false) ∧
    (p.sweepNegate = true ∧ sweepTarget true { p with sweepShift := 0 } = -1) ∧
    sweepMuted true { p with period := 7 } = true ∧
    ¬({ p with sweepDiv := 1 }.sweepDiv = 0 ∨ { p with sweepDiv := 1 }.sweepReload = true) ∧
    { p with sweepDiv := 1, sweepReload := true }.sweepReload = true := by decide

/-- `DmcOutputUnit`: the last TICK before the next clock, the last bit of a cycle and the one before it. -/
theorem test_witness_dmc_output :
    Dmc.reset.timer = 0 ∧ 427 < dmcRateTable.getD Dmc.reset.rateIndex.toNat 0 ∧
    ({ Dmc.reset with bitsRem := 1 } : Dmc).bitsRem = 1 ∧ ({ Dmc.reset with bufferFull := true }).bufferFull = true ∧
    1 < ({ Dmc.reset with bitsRem := 2 } : Dmc).bitsRem.toNat := by decide

/-- `DmcMemoryReader`, `DmcReadsOnlyTheUpperHalf`: a full buffer; a fetch that is not the last, at the end of the window;
the last of a looping sample and of another; and a TICK that fetches. -/
theorem test_witness_dmc_reader :
    let m : Dmc := { Dmc.reset with curAddr := 0xFFFF, bytesRem := 2 }
    ¬({ m with bufferFull := true }.bufferFull = false ∧ { m with bufferFull := true }.bytesRem ≠ 0) ∧
    (m.bufferFull = false ∧ m.bytesRem ≠ 0 ∧ m.bytesRem ≠ 1) ∧
    (∀ l ∈ [false, true], { m with bytesRem := 1, loop := l }.bytesRem = 1 ∧ { m with loop := l }.loop = l) ∧
    Memory.lookup (Memory.place [] 0xFFFF 0xA5) 0xFFFF = some 0xA5 := by decide

/-- `DmcReadsOnlyTheUpperHalf`. -/
theorem test_witness_dmc_window :
    let s : State := { withDmc { Dmc.reset with curAddr := 0x8000, bytesRem := 1 } with
      host := { start.host with memory := Memory.place [] 0x8000 0xA5 } }
    DmcSane s.apu.dmc ∧ (after .tick s).host.events = [.memRead 0x8000 0xA5] ++ s.host.events := by
  refine ⟨⟨by decide, by decide, by decide⟩, by decide⟩

/-- `StatusWrite`: the three cases of the DMC enable. -/
theorem test_witness_status :
    flag 0x0F#8 4 = false ∧ flag 0x10#8 4 = true ∧ Dmc.reset.bytesRem = 0 ∧
    ({ Dmc.reset with bytesRem := 1 } : Dmc).bytesRem ≠ 0 := by decide

/-- `FrameCounterTiming`: the two delays of rule R753 and the shortest, with a count below the length of the mode's
sequence and at it; both modes from a count of 0. -/
theorem test_witness_frame_timing :
    (∀ n ∈ [0, 2, 3], ({ Frame.reset with pending := n + 1 } : Frame).pending = n + 1) ∧
    (∀ b ∈ [false, true], ({ Frame.reset with mode := b } : Frame).count = 0 ∧
      ({ Frame.reset with mode := b } : Frame).pending = 0) ∧
    ({ Frame.reset with count := 29829 } : Frame).count.toNat < 29830 ∧
    29830 ≤ ({ Frame.reset with count := 29830 } : Frame).count.toNat ∧
    ({ Frame.reset with count := 29830 } : Frame).count.toNat + 3 < 0x10000 := by decide

/-- `QuarterAndHalfFramesFallAtTheRulesPositions`: one tick before, at and after the positions, in both modes, with
nothing pending and inside a delay; and a reset due in each mode. -/
theorem test_witness_frame_positions :
    (∀ n ∈ [0, 7455, 7456, 7457, 14912, 22370, 29827, 29828, 29829, 37280, 37281, 65535], ∀ b ∈ [false, true],
      ∀ p ∈ [0, 2, 4],
        let f : Frame := { Frame.reset with mode := b, pending := p, count := BitVec.ofNat 16 n }
        f.pending ≠ 1 ∧ (f.count.toNat + 1) % 0x10000 = (n + 1) % 0x10000) ∧
    (∀ b ∈ [false, true], ({ Frame.reset with mode := b, pending := 1 } : Frame).pending = 1) := by decide

/-- R1010, the spec's example: a quarter frame inside the delay; and R761: the reset of 5-step mode clocks both. -/
theorem test_frame_delay :
    let a : Apu := { Apu.reset with pulse1 := { Pulse.reset with length := 3, env := { Envelope.reset with start := true } } }
    let s : Apu := frameTick { a with frame := { Frame.reset with count := 7456, pending := 3 } }
    let t : Apu := frameTick { a with frame := { Frame.reset with mode := true, count := 7458, pending := 1 } }
    s.frame.count = 7457 ∧ s.pulse1.env.decay = 15 ∧ s.pulse1.length = 3 ∧
    t.frame.count = 0 ∧ t.pulse1.env.decay = 15 ∧ t.pulse1.length = 2 := by decide

/-- `WaveRamWrite`, `FdsOutput`, `WaveClock`, `ModulationTableWrite`, `EnvelopeConfigWrites`: both values of each gate. -/
theorem test_witness_gates :
    ∀ b ∈ [false, true],
      (withWave { FdsWave.reset with writeEnable := b }).fds.wave.writeEnable = b ∧
      (withWave { FdsWave.reset with halt := b }).fds.wave.halt = b ∧
      (withMod { FdsMod.reset with halt := b, writePos := 63 }).fds.mod.halt = b ∧
      flag (if b then 0x80#8 else 0x7F#8) 7 = b := by decide

/-- `ModulationTableWrite`: the premise of its first clause. -/
theorem test_witness_table_write_model :
    start.params.modTableWriteModel = .twoEntriesWhileHalted ∧ CommandsLegal start.fds.mod :=
  ⟨rfl, test_witness_commands_legal⟩

/-- `EnvelopeClock`: disabled; one below the period, at it; outputs of 32 and 33; `ModulationQuantity`: gains 0 and 63. -/
theorem test_witness_envelope :
    let e : FdsEnv := { FdsEnv.reset with timer := 6, output := 32 }
    (1#8 ≠ 0 ∧ 0xFF#8 ≠ 0) ∧ { e with disable := true }.disable = true ∧
    (e.disable = false ∧ e.timer + 1 < (e.speed.toNat + 1) * (1#8).toNat * 8) ∧
    ({ e with timer := 7 }.timer + 1 = (e.speed.toNat + 1) * (1#8).toNat * 8) ∧
    e.output.toNat ≤ 32 ∧ 32 < { e with output := 33 }.output.toNat ∧ (63#6 ≠ 0) := by decide

/-- `UnmodulatedTickAddsTheFrequency`: a position of 0 under a gain, and a position under a held gain of 0. -/
theorem test_witness_unmodulated :
    let s : State := { start with fds := { Fds.reset with
      mod := { FdsMod.reset with halt := true }, modEnv := { FdsEnv.reset with output := 2 } } }
    let t : State := { start with fds := { Fds.reset with
      mod := { FdsMod.reset with halt := true, position := 0x10 }, modEnv := { FdsEnv.reset with disable := true } } }
    (s.fds.mod.halt = true ∧ s.fds.wave.halt = false ∧ s.fds.mod.position = 0) ∧
    (t.fds.mod.halt = true ∧ t.fds.wave.halt = false ∧ t.fds.modEnv.output = 0 ∧ t.fds.modEnv.disable = true) := by
  decide

/-- `UnmodulatedTickAddsTheFrequency`, the other case: the table all no-ops, the modulator running, the position 0. -/
theorem test_witness_no_ops :
    (∀ i, modEntry start.fds.mod i = 0) ∧ start.fds.mod.halt = false ∧ start.fds.wave.halt = false ∧
    start.fds.mod.position = 0 := by
  refine ⟨fun i => ?_, rfl, rfl, rfl⟩
  simp [start, State.reset, Fds.reset, FdsMod.reset, modEntry]

/-- `TickRunsEveryUnitOnce`, `EnvelopeHaltLatchActsOnOneTick`: the latch set and clear, with each way the envelopes are
held, and running. -/
theorem test_witness_latch :
    (∀ b ∈ [false, true],
      let s := withWave { FdsWave.reset with envHaltLatch := b, halt := true }
      let t := withWave { FdsWave.reset with envHaltLatch := b, envHalt := true }
      s.fds.wave.envHaltLatch = b ∧ s.fds.wave.halt = true ∧ t.fds.wave.envHalt = true ∧ start.fds.masterSpeed = 0) ∧
    (after (.wrFdsMasterSpeed 1#8) start).fds.masterSpeed ≠ 0 ∧ start.fds.wave.envHalt = false := by decide

/-- `FdsAndApuDoNotInterfere`: two states that differ in the 2A03 only, and two that differ in the FDS only. -/
theorem test_witness_interference :
    ∃ s' t' u', exec .tick start = .next s' ∧
      exec .tick (withDmc { Dmc.reset with level := 5 }) = .next t' ∧
      exec .tick (withWave { FdsWave.reset with frequency := 5 }) = .next u' ∧
      start.dev = (withDmc { Dmc.reset with level := 5 }).dev ∧
      start.fds = (withDmc { Dmc.reset with level := 5 }).fds ∧
      start.apu = (withWave { FdsWave.reset with frequency := 5 }).apu :=
  ⟨_, _, _, rfl, rfl, rfl, rfl, rfl, rfl⟩

/-- `RecordOfAnApuChannel`, `RecordOfTheFdsChannel`, `RecordThroughTheDebugFilter`. -/
theorem test_witness_record :
    start.params.debugHighpass = false ∧
    { start with params := { start.params with debugHighpass := true } }.params.debugHighpass = true := by decide

/-- `EveryStepKeepsTheInvariant`, `OnlyRecordWritesTheRingBuffers`: a state that meets the invariant, and its step. -/
theorem test_witness_invariant :
    Inv (pending [0x1408380#26]) ∧ (∃ t, step (pending [0x1408380#26]) = .next t) ∧
    Instr.wrFdsWaveFreqHigh 0x80#8 ∉ [Instr.recP1, .recP2, .recTri, .recNoi, .recDmc, .recFds] := by
  refine ⟨⟨test_witness_commands_legal, ?_, by unfold FrequencyReachable; decide, ⟨by decide, by decide, by decide⟩,
    by unfold LfsrAlive; decide, ?_, rfl, rfl⟩,
    ⟨_, rfl⟩, by decide⟩
  · intro i; simp [pending, issue, start, State.reset, Fds.reset, FdsWave.reset, waveEntry]
  · intro ch; cases ch <;> exact ⟨rfl, by decide⟩

/-- `InterruptFlagsHaveTheirCausesAndNoOthers`, the frame interrupt flag: a TICK that sets it, a READ and a WRITE that clear it. -/
theorem test_witness_frame_irq :
    let s := withFrame { Frame.reset with count := 29827 }
    let t := withFrame { Frame.reset with frameIrq := true }
    s.apu.frame.frameIrq = false ∧ (after .tick s).apu.frame.frameIrq = true ∧ t.apu.frame.frameIrq = true ∧
    (after .rdStatus t).apu.frame.frameIrq = false ∧
    (after (.wrFrameCounter 0x40#8) t).apu.frame.frameIrq = false ∧ flag 0x40#8 6 = true := by decide

/-- `InterruptFlagsHaveTheirCausesAndNoOthers`, the DMC interrupt flag: a TICK that sets it, two WRITEs that clear it. -/
theorem test_witness_dmc_irq :
    let s := withDmc { Dmc.reset with bytesRem := 1, irqEnable := true, curAddr := 0xC000 }
    let t := withDmc { Dmc.reset with irqFlag := true }
    s.apu.dmc.irqFlag = false ∧ (after .tick s).apu.dmc.irqFlag = true ∧ t.apu.dmc.irqFlag = true ∧
    (after (.wrStatus 0#8) t).apu.dmc.irqFlag = false ∧ (after (.wrDmcControl 0x7F#8) t).apu.dmc.irqFlag = false ∧
    flag 0x7F#8 7 = false := by decide

/-- `OutputsAndMixLieInTheirRanges`, `FadeOutReachesZeroAfterItsLength`. -/
theorem test_witness_outputs :
    Pulse.reset.length = 0 ∧ Noise.reset.length = 0 ∧ sweepMuted true Pulse.reset = true ∧
    isMuted .tri (setMuted .tri true start) = true ∧ 179 < 180 := by decide

/-- `RendererPushesWholeFramesInPresentationOrder`: every state the renderer can be in, and both answers of `validate`. -/
theorem test_witness_renderer :
    SlotsInOrder Renderer.reset ∧ Renderer.reset.phase = .idle ∧
    (∀ p ∈ [Phase.priming, .stepping, .draining, .done, .error .fileRead],
      ({ Renderer.reset with phase := p } : Renderer).phase = p) ∧
    validate (twoLoops [0x46, 0x54, 0x44, 0x52, 0x56]) = none ∧
    validate (twoLoops []) = some .loopDetectionUnsupported := by
  refine ⟨⟨by decide, by decide, by decide⟩, rfl, by decide, by decide, by decide⟩

end Sys2Proof.Tests
end

/-! ### Taking the head of the host's sequence (rules R17 and R100) -/

namespace Sys2Proof.Machine

theorem nextOperation_of_ops {s : State} {w : OpWord} {rest : List OpWord} (h : s.host.ops = w :: rest) :
    nextOperation s = some (w, s.tookOperation rest) := by
  simp only [nextOperation, h, State.tookOperation]

@[simp] theorem stuck_tookOperation (s : State) (rest : List OpWord) :
    stuck (s.tookOperation rest) = s.dev.faulted := rfl

/-- Settles O5: the head is taken, the device is not stuck, and the word decodes. -/
theorem stepRunsTheDecodedInstruction : Obligations.StepRunsTheDecodedInstruction := by
  intro s w rest i hops hfaulted hdecode
  have htaken : nextOperation s = some (w, s.tookOperation rest) := nextOperation_of_ops hops
  have hawake : stuck (s.tookOperation rest) = false := by rw [stuck_tookOperation, hfaulted]
  simp [step, htaken, hawake, hdecode]

end Sys2Proof.Machine

/-! ### What one step and one instruction can do to the marks and the interrupt flags -/

namespace Sys2Proof.Machine

@[simp] theorem tookOperation_dev (s : State) (rest : List OpWord) : (s.tookOperation rest).dev = s.dev := rfl

/-- What a step does: it takes the head of the sequence; then a faulted device rests, and another one runs the instruction
of a word that decodes and refuses a word that does not. -/
theorem step_cases {s t : State} (h : step s = .next t) :
    ∃ w rest, s.host.ops = w :: rest ∧
      ((s.dev.faulted = true ∧ t = s.tookOperation rest) ∨
      (s.dev.faulted = false ∧ ∃ i, decodeWord w = .ok i ∧ exec i (s.tookOperation rest) = .next t) ∨
      (s.dev.faulted = false ∧ ∃ c, decodeWord w = .error c ∧ t = refuse c (s.tookOperation rest))) := by
  cases hops : s.host.ops with
  | nil => simp [step, nextOperation, hops] at h
  | cons w rest =>
    refine ⟨w, rest, rfl, ?_⟩
    simp only [step, nextOperation_of_ops hops, stuck_tookOperation] at h
    cases hfaulted : s.dev.faulted with
    | true => simp only [hfaulted, if_true, Host.Outcome.next.injEq] at h; exact .inl ⟨rfl, h.symm⟩
    | false =>
      cases hdecode : decodeWord w with
      | ok i => exact .inr (.inl ⟨rfl, i, rfl, by simpa [hfaulted, hdecode] using h⟩)
      | error c => exact .inr (.inr ⟨rfl, c, rfl, by simpa [hfaulted, hdecode, eq_comm] using h⟩)

/-- The effects an instruction can have on the marks, the frame counter and the DMC interrupt flag. -/
inductive FlagEffect (s : State) : Instr → State → Prop where
  | tick {t : State} (h : execTick s = .next t) : FlagEffect s .tick t
  | readStatus : FlagEffect s .rdStatus (emit (.readReply (statusReply s))
      ((draw s).2.withApu { s.apu with frame := clearFrameIrq s.apu.frame }))
  | writeStatus (d : Byte) : FlagEffect s (.wrStatus d) (s.withApu (statusWrite d s.apu))
  | writeDmcControl (d : Byte) : FlagEffect s (.wrDmcControl d) (onDmc (dmcControl d) s)
  | writeFrameCounter (d : Byte) : FlagEffect s (.wrFrameCounter d)
      (s.withApu { s.apu with frame := frameWrite d s.dev.cycle s.apu.frame })
  | refused (i : Instr) (c : Condition) : FlagEffect s i (refuse c s)
  | none {i : Instr} {t : State} (hdev : t.dev = s.dev) (hframe : t.apu.frame = s.apu.frame)
      (hdmc : t.apu.dmc.irqFlag = s.apu.dmc.irqFlag) : FlagEffect s i t

theorem FlagEffect.record (i : Instr) (ch : Channel) (s : State) : FlagEffect s i (recordChannel ch s) := by
  obtain ⟨v, hv⟩ := recordChannel_eq ch s
  rw [hv]
  exact .none rfl rfl rfl

theorem FlagEffect.recordFds (i : Instr) (s : State) : FlagEffect s i (recordFds s) := by
  obtain ⟨v, hv⟩ := recordFds_eq s
  rw [hv]
  exact .none rfl rfl rfl

/-- Every instruction that completes has one of these effects. -/
theorem exec_flagEffect {i : Instr} {s t : State} (h : exec i s = .next t) : FlagEffect s i t := by
  cases i
  case tick => exact .tick h
  all_goals obtain rfl := Host.Outcome.next.inj h
  case rdStatus => exact .readStatus
  case wrStatus d => exact .writeStatus d
  case wrDmcControl d => exact .writeDmcControl d
  case wrFrameCounter d => exact .writeFrameCounter d
  case recP1 | recP2 | recTri | recNoi | recDmc => exact .record _ _ s
  case recFds => exact .recordFds _ s
  case rdOther | recOther | wrN163Data | wrN163Address | wrMmc5Low | wrMmc5Mid | wrMmc5High | wrVrc6Pulse1 |
      wrVrc6Pulse2 | wrVrc6Pulse2Top | wrVrc6Saw | wrVrc6SawTop | wrVrc7Address | wrVrc7Data | wrS5bAddress |
      wrS5bData =>
    exact .refused _ _
  all_goals exact .none rfl rfl rfl

/-- What a TICK answers, apart from the FDS: the APU of its first half, and the cycle counted or the fault taken. -/
theorem execTick_next {s t : State} (h : execTick s = .next t) :
    t.apu = (tickBegin s).apu ∧
      ((t.dev = { s.dev with cycle := s.dev.cycle + 1 } ∧ t.host = (tickBegin s).host) ∨
      (t.dev = { s.dev with faulted := true } ∧
        t.host.events = .condition .badModCommand :: (tickBegin s).host.events)) := by
  obtain ⟨hdev, -⟩ := tickBegin_keeps s
  obtain ⟨p, q, ht⟩ | ⟨-, ht⟩ := execTick_cases s <;> obtain rfl := Host.Outcome.next.inj (ht.symm.trans h)
  · exact ⟨rfl, .inl ⟨by simp [withPosPhase, hdev], rfl⟩⟩
  · exact ⟨rfl, .inr ⟨by simp [hdev], rfl⟩⟩

/-! ### The marks (rules R903 and R1003) -/

/-- An instruction sets marks or leaves them. -/
theorem exec_keeps_marks {i : Instr} {s t : State} (h : exec i s = .next t) :
    (s.dev.faulted = true → t.dev.faulted = true) ∧ (s.dev.refused = true → t.dev.refused = true) := by
  cases exec_flagEffect h with
  | tick ht => obtain ⟨-, ⟨hdev, -⟩ | ⟨hdev, -⟩⟩ := execTick_next ht <;> simp [hdev]
  | none hdev => rw [hdev]; exact ⟨id, id⟩
  | refused => exact ⟨id, fun _ => rfl⟩
  | readStatus | writeStatus | writeDmcControl | writeFrameCounter => exact ⟨id, id⟩

/-- Settles O12: a resting device and a refused word keep both marks, and so does every instruction. -/
theorem marksAreNeverCleared : Obligations.MarksAreNeverCleared := by
  intro s t h
  obtain ⟨w, rest, -, ⟨-, rfl⟩ | ⟨-, i, -, hexec⟩ | ⟨-, c, -, rfl⟩⟩ := step_cases h
  · exact ⟨id, id⟩
  · simpa only [tookOperation_dev] using exec_keeps_marks hexec
  · exact ⟨id, fun _ => rfl⟩

/-! ### The interrupt flags (rules R905 and R906) -/

theorem irqAt_iff (fiveStep : Bool) (n : Nat) :
    irqAt fiveStep n = true ↔ fiveStep = false ∧ n ∈ [29828, 29829, 29830] := by
  simp [irqAt, or_assoc]

@[simp] theorem apuTick_dmc (cycle : Nat) (a : Apu) : (apuTick cycle a).dmc = dmcTimer a.dmc := by simp [apuTick]

@[simp] theorem apuTick_frame (cycle : Nat) (a : Apu) : (apuTick cycle a).frame = (frameTick a).frame := rfl

@[simp] theorem dmcReader_frame (s : State) : (dmcReader s).apu.frame = s.apu.frame := by
  obtain ⟨-, h⟩ | ⟨-, h⟩ := dmcReader_cases s <;> rw [h]

/-- The frame counter after the first half of a TICK is the one `FrameTick` leaves. -/
theorem tickBegin_frame (s : State) : (tickBegin s).apu.frame = (frameTick s.apu).frame := by
  simp [tickBegin]

/-- A byte that is not the last of a sample leaves the interrupt flag; the last one raises it if the sample does not loop
and IRQs are enabled (rule R716). -/
theorem dmcFetched_irqFlag (v : Byte) (m : Dmc) :
    (dmcFetched v m).irqFlag = (m.irqFlag || (decide (m.bytesRem = 1) && !m.loop && m.irqEnable)) := by
  by_cases h1 : m.bytesRem = 1
  · cases hloop : m.loop <;> simp [dmcFetched, dmcSampleEnd, dmcRestart, h1, hloop]
  · have hmore : m.bytesRem - 1 ≠ 0 := by bv_omega
    rw [dmcFetched, dmcSampleEnd, if_neg hmore, decide_eq_false h1, Bool.false_and, Bool.false_and, Bool.or_false]

/-- A fetch puts the byte read in the buffer. -/
theorem dmcFetched_buffer (v : Byte) (m : Dmc) :
    (dmcFetched v m).buffer = v ∧ (dmcFetched v m).bufferFull = true := by
  simp only [dmcFetched, dmcSampleEnd]
  split
  · split <;> exact ⟨rfl, rfl⟩
  · exact ⟨rfl, rfl⟩

/-- After the last byte of a sample that does not loop no byte remains. -/
theorem dmcFetched_bytesRem_last (v : Byte) (m : Dmc) (h1 : m.bytesRem = 1) (hloop : m.loop = false) :
    (dmcFetched v m).bytesRem = 0 := by
  simp [dmcFetched, dmcSampleEnd, h1, hloop]

/-- What the first half of a TICK does to the DMC interrupt flag: it leaves it, or it fetches, and what it leaves of the
DMC and of the events is what that fetch leaves. -/
theorem tickBegin_dmc_cases (s : State) :
    (tickBegin s).apu.dmc.irqFlag = s.apu.dmc.irqFlag ∨
    ∃ v, (tickBegin s).apu.dmc = dmcFetched v (dmcTimer s.apu.dmc) ∧
      (tickBegin s).host.events = .memRead s.apu.dmc.curAddr v :: s.host.events := by
  obtain ⟨-, hcur, -, -, hirq, -⟩ := dmcTimer_keeps s.apu.dmc
  obtain ⟨-, h⟩ | ⟨-, h⟩ := dmcReader_cases (s.withApu (apuTick s.dev.cycle s.apu))
  · exact .inl (by simp [tickBegin, h, hirq])
  · exact .inr ⟨_, by simp [tickBegin, h]; rfl, by simp [tickBegin, h, hcur]⟩

/-- The first half of a TICK raises the DMC interrupt flag only by fetching the last byte of a sample. -/
theorem tickBegin_raises_dmcIrq {s : State} (h0 : s.apu.dmc.irqFlag = false)
    (h1 : (tickBegin s).apu.dmc.irqFlag = true) :
    s.apu.dmc.bytesRem = 1 ∧ s.apu.dmc.loop = false ∧ s.apu.dmc.irqEnable = true ∧
      (tickBegin s).apu.dmc.bytesRem = 0 ∧ (tickBegin s).apu.dmc.bufferFull = true ∧
      (tickBegin s).host.events = .memRead s.apu.dmc.curAddr (tickBegin s).apu.dmc.buffer :: s.host.events := by
  obtain ⟨hrem, -, hloop, henable, hirq, -⟩ := dmcTimer_keeps s.apu.dmc
  obtain hsame | ⟨v, hdmc, hevents⟩ := tickBegin_dmc_cases s
  · rw [hsame, h0] at h1; contradiction
  · rw [hdmc, dmcFetched_irqFlag, hrem, hloop, henable, hirq, h0] at h1
    obtain ⟨⟨hone, hnoloop⟩, hon⟩ : (s.apu.dmc.bytesRem = 1 ∧ s.apu.dmc.loop = false) ∧ s.apu.dmc.irqEnable = true := by
      simpa using h1
    obtain ⟨hbuffer, hfull⟩ := dmcFetched_buffer v (dmcTimer s.apu.dmc)
    rw [hevents, hdmc, hbuffer]
    exact ⟨hone, hnoloop, hon, dmcFetched_bytesRem_last v _ (hrem.trans hone) (hloop.trans hnoloop), hfull, rfl⟩

/-- The first half of a TICK never clears the DMC interrupt flag. -/
theorem tickBegin_keeps_dmcIrq {s : State} (h : s.apu.dmc.irqFlag = true) : (tickBegin s).apu.dmc.irqFlag = true := by
  obtain ⟨-, -, -, -, hirq, -⟩ := dmcTimer_keeps s.apu.dmc
  obtain hsame | ⟨v, hdmc, -⟩ := tickBegin_dmc_cases s
  · rw [hsame, h]
  · simp [hdmc, dmcFetched_irqFlag, hirq, h]

/-- The frame interrupt flag is set only by a TICK, at one of the three counts of the 4-step sequence, not inhibited. -/
theorem exec_raises_frameIrq {i : Instr} {s t : State} (h : exec i s = .next t)
    (h0 : s.apu.frame.frameIrq = false) (h1 : t.apu.frame.frameIrq = true) :
    i = .tick ∧ s.apu.frame.mode = false ∧ s.apu.frame.irqInhibit = false ∧
      s.apu.frame.count.toNat + 1 ∈ [29828, 29829, 29830] := by
  cases exec_flagEffect h with
  | tick ht =>
    obtain ⟨hapu, -⟩ := execTick_next ht
    rw [hapu, tickBegin_frame, frameTick_irq, h0] at h1
    obtain ⟨⟨-, hat⟩, hinhibit⟩ : (s.apu.frame.pending ≠ 1 ∧
        irqAt s.apu.frame.mode (s.apu.frame.count + 1).toNat = true) ∧ s.apu.frame.irqInhibit = false := by
      simpa using h1
    obtain ⟨hmode, hcount⟩ := (irqAt_iff _ _).1 hat
    have hnowrap : (s.apu.frame.count + 1).toNat = s.apu.frame.count.toNat + 1 := by
      simp only [List.mem_cons, List.not_mem_nil, or_false] at hcount; bv_omega
    exact ⟨rfl, hmode, hinhibit, hnowrap ▸ hcount⟩
  | none _ hframe => rw [hframe, h0] at h1; contradiction
  | readStatus => simp [clearFrameIrq] at h1
  | writeFrameCounter d => simp [frameWrite, h0] at h1
  | writeStatus | writeDmcControl | refused => exact absurd h1 (by simp [h0, statusWrite])

/-- The frame interrupt flag is cleared only by a `$4015` READ or a `$4017` WRITE with bit 6 set. -/
theorem exec_clears_frameIrq {i : Instr} {s t : State} (h : exec i s = .next t)
    (h0 : s.apu.frame.frameIrq = true) (h1 : t.apu.frame.frameIrq = false) :
    i = .rdStatus ∨ ∃ d, i = .wrFrameCounter d ∧ flag d 6 = true := by
  cases exec_flagEffect h with
  | readStatus => exact .inl rfl
  | writeFrameCounter d => exact .inr ⟨d, rfl, by simpa [frameWrite, h0, bit_eq_flag] using h1⟩
  | tick ht =>
    obtain ⟨hapu, -⟩ := execTick_next ht
    rw [hapu, tickBegin_frame, frameTick_irq, h0, Bool.true_or] at h1
    contradiction
  | none _ hframe => rw [hframe, h0] at h1; contradiction
  | writeStatus | writeDmcControl | refused => exact absurd h1 (by simp [h0, statusWrite])

/-- The DMC interrupt flag is set only by a TICK that fetches the last byte of a sample that does not loop, with IRQs
enabled. -/
theorem exec_raises_dmcIrq {i : Instr} {s t : State} (h : exec i s = .next t)
    (h0 : s.apu.dmc.irqFlag = false) (h1 : t.apu.dmc.irqFlag = true) :
    i = .tick ∧ s.apu.dmc.bytesRem = 1 ∧ s.apu.dmc.loop = false ∧ s.apu.dmc.irqEnable = true ∧
      t.apu.dmc.bytesRem = 0 ∧ t.apu.dmc.bufferFull = true ∧
      ∃ (v : Byte) (later : List Event), (later = [] ∨ later = [.condition .badModCommand]) ∧ t.apu.dmc.buffer = v ∧
        t.host.events = later ++ .memRead s.apu.dmc.curAddr v :: s.host.events := by
  cases exec_flagEffect h with
  | tick ht =>
    obtain ⟨hapu, hend⟩ := execTick_next ht
    rw [hapu] at h1 ⊢
    obtain ⟨hone, hnoloop, hon, hzero, hfull, hevents⟩ := tickBegin_raises_dmcIrq h0 h1
    refine ⟨rfl, hone, hnoloop, hon, hzero, hfull, (tickBegin s).apu.dmc.buffer, ?_⟩
    obtain ⟨-, hhost⟩ | ⟨-, hhost⟩ := hend
    · exact ⟨[], .inl rfl, rfl, by rw [hhost, hevents, List.nil_append]⟩
    · exact ⟨[.condition .badModCommand], .inr rfl, rfl, by rw [hhost, hevents, List.singleton_append]⟩
  | none _ _ hdmc => rw [hdmc, h0] at h1; contradiction
  | writeStatus => simp [statusWrite, clearDmcIrq] at h1
  | writeDmcControl d => simp [dmcControl, h0] at h1
  | readStatus | writeFrameCounter | refused => exact absurd h1 (by simp [h0])

/-- The DMC interrupt flag is cleared only by a `$4015` WRITE or a `$4010` WRITE with bit 7 clear. -/
theorem exec_clears_dmcIrq {i : Instr} {s t : State} (h : exec i s = .next t)
    (h0 : s.apu.dmc.irqFlag = true) (h1 : t.apu.dmc.irqFlag = false) :
    (∃ d, i = .wrStatus d) ∨ ∃ d, i = .wrDmcControl d ∧ flag d 7 = false := by
  cases exec_flagEffect h with
  | writeStatus d => exact .inl ⟨d, rfl⟩
  | writeDmcControl d => exact .inr ⟨d, rfl, by simpa [dmcControl, h0, bit_eq_flag] using h1⟩
  | tick ht =>
    obtain ⟨hapu, -⟩ := execTick_next ht
    rw [hapu, tickBegin_keeps_dmcIrq h0] at h1
    contradiction
  | none _ _ hdmc => rw [hdmc, h0] at h1; contradiction
  | readStatus | writeFrameCounter | refused => exact absurd h1 (by simp [h0])

/-- Settles O55: the four causes, by the effect of the instruction, and the IRQ line by its definition. -/
theorem interruptFlagsHaveTheirCausesAndNoOthers : Obligations.InterruptFlagsHaveTheirCausesAndNoOthers :=
  ⟨fun _ => Bool.or_eq_true _ _ ▸ Iff.rfl, fun _ _ _ h =>
    ⟨exec_raises_frameIrq h, exec_clears_frameIrq h, exec_raises_dmcIrq h, exec_clears_dmcIrq h⟩⟩

end Sys2Proof.Machine

/-! ### What an instruction reads of memory (rules R200 and R716) -/

namespace Sys2Proof.Machine

/-- What was added to the events, newest first, reads memory in `$8000-$FFFF` only. -/
def OnlyHighReadsSince (old now : List Event) : Prop :=
  ∃ new : List Event, now = new ++ old ∧ ∀ (a : Addr) (v : Byte), .memRead a v ∈ new → 0x8000 ≤ a.toNat

namespace OnlyHighReadsSince

theorem refl (old : List Event) : OnlyHighReadsSince old old := ⟨[], rfl, by simp⟩

theorem cons {old now : List Event} {e : Event} (h : OnlyHighReadsSince old now)
    (he : ∀ a v, e = .memRead a v → 0x8000 ≤ a.toNat) : OnlyHighReadsSince old (e :: now) := by
  obtain ⟨new, rfl, hnew⟩ := h
  refine ⟨e :: new, rfl, fun a v hmem => ?_⟩
  obtain heq | hmem := List.mem_cons.1 hmem
  · exact he a v heq.symm
  · exact hnew a v hmem

theorem condition {old now : List Event} (h : OnlyHighReadsSince old now) (c : Condition) :
    OnlyHighReadsSince old (.condition c :: now) :=
  h.cons fun _ _ heq => Event.noConfusion heq

theorem readReply {old now : List Event} (h : OnlyHighReadsSince old now) (v : Byte) :
    OnlyHighReadsSince old (.readReply v :: now) :=
  h.cons fun _ _ heq => Event.noConfusion heq

end OnlyHighReadsSince

/-- The memory reader fetches only while bytes remain. -/
theorem bytesRem_ne_zero_of_dmcFetches {m : Dmc} (h : dmcFetches m = true) : m.bytesRem ≠ 0 := by
  simp only [dmcFetches, dmcActive, Bool.and_eq_true, bne_iff_ne] at h
  exact h.2

/-- The first half of a TICK adds no event, or, with bytes remaining, the read at the reader's current address. -/
theorem tickBegin_events (s : State) :
    (tickBegin s).host.events = s.host.events ∨
    s.apu.dmc.bytesRem ≠ 0 ∧ ∃ v, (tickBegin s).host.events = .memRead s.apu.dmc.curAddr v :: s.host.events := by
  obtain ⟨hrem, hcur, -⟩ := dmcTimer_keeps s.apu.dmc
  obtain ⟨-, h⟩ | ⟨hfetches, h⟩ := dmcReader_cases (s.withApu (apuTick s.dev.cycle s.apu))
  · exact .inl (by simp [tickBegin, h])
  · have hmore : (dmcTimer s.apu.dmc).bytesRem ≠ 0 := by simpa using bytesRem_ne_zero_of_dmcFetches hfetches
    exact .inr ⟨hrem ▸ hmore, memAnswer (s.withApu (apuTick s.dev.cycle s.apu)) s.apu.dmc.curAddr,
      by simp [tickBegin, h, hcur]⟩

/-- The one read of a TICK is at the reader's address, which is in the window while bytes remain. -/
theorem execTick_reads {s t : State} (hsane : DmcSane s.apu.dmc) (h : execTick s = .next t) :
    OnlyHighReadsSince s.host.events t.host.events := by
  obtain ⟨hwindow, -⟩ := hsane
  have hbegin : OnlyHighReadsSince s.host.events (tickBegin s).host.events := by
    obtain hsame | ⟨hmore, v, hread⟩ := tickBegin_events s
    · rw [hsame]; exact .refl _
    · rw [hread]
      refine (OnlyHighReadsSince.refl _).cons fun a w heq => ?_
      obtain ⟨rfl, -⟩ := Event.memRead.inj heq
      exact hwindow hmore
  obtain ⟨-, ⟨-, hhost⟩ | ⟨-, hevents⟩⟩ := execTick_next h
  · rw [hhost]; exact hbegin
  · rw [hevents]; exact hbegin.condition _

theorem recordChannel_events (ch : Channel) (s : State) : (recordChannel ch s).host.events = s.host.events := by
  obtain ⟨v, hv⟩ := recordChannel_eq ch s
  rw [hv]

theorem recordFds_events (s : State) : (recordFds s).host.events = s.host.events := by
  obtain ⟨v, hv⟩ := recordFds_eq s
  rw [hv]

/-- Settles O56: a TICK reads at the reader's address; a `$4015` READ adds its reply, a refusal its condition, and every
other instruction adds no event. -/
theorem dmcReadsOnlyTheUpperHalf : Obligations.DmcReadsOnlyTheUpperHalf := by
  intro i s t hsane h
  change OnlyHighReadsSince s.host.events t.host.events
  cases i
  case tick => exact execTick_reads hsane h
  all_goals obtain rfl := Host.Outcome.next.inj h
  case rdStatus => exact (OnlyHighReadsSince.refl _).readReply _
  case recP1 | recP2 | recTri | recNoi | recDmc => rw [recordChannel_events]; exact .refl _
  case recFds => rw [recordFds_events]; exact .refl _
  case rdOther | recOther | wrN163Data | wrN163Address | wrMmc5Low | wrMmc5Mid | wrMmc5High | wrVrc6Pulse1 |
      wrVrc6Pulse2 | wrVrc6Pulse2Top | wrVrc6Saw | wrVrc6SawTop | wrVrc7Address | wrVrc7Data | wrS5bAddress |
      wrS5bData =>
    exact (OnlyHighReadsSince.refl _).condition _
  all_goals exact .refl _

end Sys2Proof.Machine

/-! ### The invariant (rules R13, R103, R113, R321, R401, R404, R501, R657, R707, R716 and R902) -/

namespace Sys2Proof.Machine

/-! What each unit's operations do to its part of the invariant. -/

/-- The shift keeps every bit but bit 0, so only 1 could step to zero, and its feedback bit is 1. -/
theorem lfsrStep_ne_zero (mode : Bool) {r : BitVec 15} (h : r ≠ 0) : lfsrStep mode r ≠ 0 := by
  intro hzero
  have hshift : r.toNat / 2 ^ 1 % 2 ^ 14 = 0 := by
    have := congrArg BitVec.toNat hzero
    rw [lfsrStep, append_toNat, BitVec.extractLsb'_toNat, Nat.shiftRight_eq_div_pow] at this
    exact Nat.eq_zero_of_add_eq_zero_left this
  obtain rfl : r = 1 := by bv_omega
  cases mode <;> exact absurd hzero (by decide)

theorem noiseTimer_alive {n : Noise} (h : LfsrAlive n) : LfsrAlive (noiseTimer n) := by
  rw [noiseTimer]
  split
  · exact lfsrStep_ne_zero n.mode h
  · exact h

theorem dmcRestart_sane {m : Dmc} (h : DmcSane m) : DmcSane (dmcRestart m) := by
  obtain ⟨-, hbits⟩ := h
  obtain ⟨haddr, -⟩ := dmcRestart_toNat m
  exact ⟨fun _ => by omega, hbits⟩

theorem dmcEnable_sane (on : Bool) {m : Dmc} (h : DmcSane m) : DmcSane (dmcEnable on m) := by
  cases on with
  | false => exact ⟨fun hmore => absurd rfl hmore, h.2⟩
  | true =>
    simp only [dmcEnable, if_true]
    split
    · exact dmcRestart_sane h
    · exact h

theorem dmcTimer_sane {m : Dmc} (h : DmcSane m) : DmcSane (dmcTimer m) := by
  obtain ⟨hwindow, hlow, hhigh⟩ := h
  obtain ⟨hrem, hcur, -⟩ := dmcTimer_keeps m
  exact ⟨by rw [hrem, hcur]; exact hwindow, dmcTimer_bits m hlow hhigh⟩

/-- The reader's address stays in the upper half: from its last address it wraps to its first. -/
theorem dmcNextAddr_high {a : Addr} (h : 0x8000 ≤ a.toNat) : 0x8000 ≤ (dmcNextAddr a).toNat := by
  rw [dmcNextAddr]
  split
  · decide
  · bv_omega

theorem dmcSampleEnd_sane {m : Dmc} (h : DmcSane m) : DmcSane (dmcSampleEnd m) := by
  rw [dmcSampleEnd]
  split
  · split
    · exact dmcRestart_sane h
    · exact h
  · exact h

theorem dmcFetched_sane (v : Byte) {m : Dmc} (h : DmcSane m) (hmore : m.bytesRem ≠ 0) :
    DmcSane (dmcFetched v m) := by
  obtain ⟨hwindow, hbits⟩ := h
  exact dmcSampleEnd_sane ⟨fun _ => dmcNextAddr_high (hwindow hmore), hbits⟩

theorem waveRamWrite_masked (mask i : BitVec 6) (d : Byte) {w : FdsWave} (h : SamplesMasked mask w) :
    SamplesMasked mask (waveRamWrite mask i d w) := by
  intro j
  rw [waveRamWrite]
  split
  · by_cases hij : j = i
    · rw [hij, waveEntry_set_self, BitVec.and_assoc, BitVec.and_self]
    · rw [waveEntry_set_ne w _ hij]; exact h j
  · exact h j

theorem waveRamWrite_frequency (mask i : BitVec 6) (d : Byte) (w : FdsWave) :
    (waveRamWrite mask i d w).frequency = w.frequency := by
  rw [waveRamWrite]; split <;> rfl

/-- The low byte alone does not take a frequency out of its 12 bits (rule R403). -/
theorem withLow16_reachable {f : BitVec 16} (d : Byte) (h : f.toNat < 0x1000) : (withLow16 f d).toNat < 0x1000 := by
  have hd := d.isLt
  rw [withLow16_toNat]; omega

/-- The high register clears bits 15:12 (rule R404). -/
theorem withHigh16_reachable (f : BitVec 16) (d : Byte) : (withHigh16 f d).toNat < 0x1000 := by
  rw [withHigh16_toNat, field]; omega

/-- Whether a wave RAM is masked depends on the table only. -/
theorem masked_of_table {mask : BitVec 6} {v w : FdsWave} (h : w.table = v.table) (hv : SamplesMasked mask v) :
    SamplesMasked mask w := by
  intro i; simpa only [waveEntry, h] using hv i

/-! What each update of the state keeps of the invariant. -/

theorem Inv.tookOperation {s : State} (h : Inv s) (rest : List OpWord) : Inv (s.tookOperation rest) :=
  ⟨h.commands, h.samples, h.frequency, h.dmc, h.lfsr, h.rings, h.memory, h.running⟩

theorem Inv.refuse {s : State} (h : Inv s) (c : Condition) : Inv (refuse c s) :=
  ⟨h.commands, h.samples, h.frequency, h.dmc, h.lfsr, h.rings, h.memory, h.running⟩

theorem Inv.withApu {s : State} (h : Inv s) {a : Apu} (hdmc : DmcSane a.dmc) (hlfsr : LfsrAlive a.noise) :
    Inv (s.withApu a) :=
  ⟨h.commands, h.samples, h.frequency, hdmc, hlfsr, h.rings, h.memory, h.running⟩

theorem Inv.withFds {s : State} (h : Inv s) {f : Fds} (hcommands : CommandsLegal f.mod)
    (hsamples : SamplesMasked s.params.waveSampleMask f.wave) (hfrequency : FrequencyReachable f.wave) :
    Inv (s.withFds f) :=
  ⟨hcommands, hsamples, hfrequency, h.dmc, h.lfsr, h.rings, h.memory, h.running⟩

/-- Events and draws are outside the invariant. -/
theorem Inv.withEventsDraws {s : State} (h : Inv s) (events : List Event) (draws : Nat) :
    Inv { s with host := { s.host with events := events, draws := draws } } :=
  ⟨h.commands, h.samples, h.frequency, h.dmc, h.lfsr, h.rings, h.memory, h.running⟩

theorem Inv.withPush {s : State} (h : Inv s) (ch : Channel) (v : Sample) (e : Bool) :
    Inv { s with channels := s.channels.set ch ((s.channels.get ch).push v e) } :=
  ⟨h.commands, h.samples, h.frequency, h.dmc, h.lfsr,
    Channels.set_sane ch (ChannelBuf.push_sane _ v e (h.rings ch)) h.rings, h.memory, h.running⟩

theorem Inv.recordChannel {s : State} (h : Inv s) (ch : Channel) : Inv (recordChannel ch s) := by
  obtain ⟨v, hv⟩ := recordChannel_eq ch s
  rw [hv]
  exact (h.withPush ch v _).withEventsDraws _ _

theorem Inv.recordFds {s : State} (h : Inv s) : Inv (recordFds s) := by
  obtain ⟨v, hv⟩ := recordFds_eq s
  rw [hv]
  exact ((h.withFds (f := { s.fds with y2 := lowPass s.params.filterA2 s.fds.y2 s.fds.filtered })
    h.commands h.samples h.frequency).withPush .fds v _).withEventsDraws _ _

/-! The TICK, part by part. -/

theorem apuTick_alive (cycle : Nat) {a : Apu} (h : LfsrAlive a.noise) : LfsrAlive (apuTick cycle a).noise :=
  noiseTimer_alive (by rw [LfsrAlive, frameTick_lfsr]; exact h)

theorem Inv.dmcReader {s : State} (h : Inv s) : Inv (dmcReader s) := by
  obtain ⟨-, hr⟩ | ⟨hfetches, hr⟩ := dmcReader_cases s <;> rw [hr]
  · exact h
  · have hfetched := dmcFetched_sane (memAnswer s s.apu.dmc.curAddr) h.dmc (bytesRem_ne_zero_of_dmcFetches hfetches)
    exact (h.withApu (a := { s.apu with dmc := dmcFetched _ s.apu.dmc }) hfetched h.lfsr).withEventsDraws _ _

theorem Inv.tickBegin {s : State} (h : Inv s) : Inv (tickBegin s) := by
  have hunits : Inv (s.withApu (apuTick s.dev.cycle s.apu)) :=
    h.withApu (by rw [apuTick_dmc]; exact dmcTimer_sane h.dmc) (apuTick_alive _ h.lfsr)
  have hreader := hunits.dmcReader
  exact hreader.withFds (by simpa using hreader.commands) (by simpa using hreader.samples)
    (by simpa using hreader.frequency)

theorem Inv.withPosPhase {s : State} (h : Inv s) (p : BitVec 7) (q : BitVec 22) : Inv (withPosPhase p q s) :=
  h.withFds (legal_of_table rfl h.commands) h.samples h.frequency

theorem Inv.tickEnd {s : State} (h : Inv s) (i : BitVec 6) : Inv (tickEnd i s) := by
  have hfds : Inv (s.withFds (fdsOutput s.params.filterA1 i (waveClock s.fds))) :=
    h.withFds (by simpa using h.commands) (masked_of_table (by simp) h.samples)
      (by simpa [FrequencyReachable] using h.frequency)
  exact ⟨hfds.commands, hfds.samples, hfds.frequency, hfds.dmc, hfds.lfsr, hfds.rings, hfds.memory, hfds.running⟩

/-- A TICK of a device whose table holds commands ends normally, and each part of it keeps the invariant. -/
theorem Inv.execTick {s t : State} (h : Inv s) (ht : execTick s = .next t) : Inv t := by
  obtain ⟨p, q, hnext⟩ := execTick_legal h.commands
  obtain rfl := Host.Outcome.next.inj (hnext.symm.trans ht)
  exact (h.tickBegin.withPosPhase p q).tickEnd _

/-- Every instruction keeps the invariant: the few that write a field it speaks of by the lemma about that field. -/
theorem Inv.exec {i : Instr} {s t : State} (h : Inv s) (ht : exec i s = .next t) : Inv t := by
  cases i
  case tick => exact h.execTick ht
  all_goals obtain rfl := Host.Outcome.next.inj ht
  case wrStatus d => exact h.withApu (dmcEnable_sane (bit d 4) h.dmc) h.lfsr
  case wrFdsWaveRam i d =>
    exact h.withFds h.commands (waveRamWrite_masked _ i d h.samples)
      (by rw [FrequencyReachable, waveRamWrite_frequency]; exact h.frequency)
  case wrFdsWaveFreqLow d => exact h.withFds h.commands h.samples (withLow16_reachable d h.frequency)
  case wrFdsWaveFreqHigh d => exact h.withFds h.commands h.samples (withHigh16_reachable _ d)
  case wrFdsModTable d => exact h.withFds (modTableWrite_legal _ d h.commands) h.samples h.frequency
  case wrFdsVolumeEnv | wrFdsModEnv | wrFdsModPosition | wrFdsModFreqLow | wrFdsModFreqHigh | wrFdsWaveConfig |
      wrFdsMasterSpeed | madd1 | madd2 | madd4 | mrst | msub4 | msub2 | msub1 =>
    exact h.withFds h.commands h.samples h.frequency
  case rdStatus =>
    exact (h.withApu (a := { s.apu with frame := clearFrameIrq s.apu.frame }) h.dmc h.lfsr).withEventsDraws _ _
  case recP1 | recP2 | recTri | recNoi | recDmc => exact h.recordChannel _
  case recFds => exact h.recordFds
  case rdOther | recOther | wrN163Data | wrN163Address | wrMmc5Low | wrMmc5Mid | wrMmc5High | wrVrc6Pulse1 |
      wrVrc6Pulse2 | wrVrc6Pulse2Top | wrVrc6Saw | wrVrc6SawTop | wrVrc7Address | wrVrc7Data | wrS5bAddress |
      wrS5bData =>
    exact h.refuse _
  case wrOther | wrUnused4009 | wrUnused400D | wrNotApu4014 | wrNotApu4016 | wrFdsUnused4081 | mnop => exact h
  all_goals exact h.withApu h.dmc h.lfsr

/-- Settles O53: taking the operation, resting and refusing touch nothing the invariant speaks of, and every instruction
keeps it. -/
theorem everyStepKeepsTheInvariant : Obligations.EveryStepKeepsTheInvariant := by
  intro s t h hstep
  obtain ⟨w, rest, -, ⟨-, rfl⟩ | ⟨-, i, -, hexec⟩ | ⟨-, c, -, rfl⟩⟩ := step_cases hstep
  · exact h.tookOperation rest
  · exact (h.tookOperation rest).exec hexec
  · exact (h.tookOperation rest).refuse c

end Sys2Proof.Machine

/-! ### Decoding and encoding (rules R300 to R302, R310 to R314, R320 and R321) -/

namespace Sys2Proof.Laws.RoundTrip

/-- Settles O1: one lemma per constructor, in the order of the opcode table. -/
theorem decodeOfEncodeIsTheInstruction : Obligations.DecodeOfEncodeIsTheInstruction := fun i =>
  Instr.casesOn (motive := Statement) i tick
    wrPulse1Control wrPulse1Sweep wrPulse1PeriodLow wrPulse1LengthHigh
    wrPulse2Control wrPulse2Sweep wrPulse2PeriodLow wrPulse2LengthHigh
    wrTriLinear wrUnused4009 wrTriPeriodLow wrTriLengthHigh
    wrNoiseControl wrUnused400D wrNoiseMode wrNoiseLength
    wrDmcControl wrDmcLoad wrDmcAddress wrDmcLength
    wrNotApu4014 wrStatus wrNotApu4016 wrFrameCounter
    wrFdsWaveRam wrFdsVolumeEnv wrFdsUnused4081 wrFdsWaveFreqLow wrFdsWaveFreqHigh wrFdsModEnv
    wrFdsModPosition wrFdsModFreqLow wrFdsModFreqHigh wrFdsModTable wrFdsWaveConfig wrFdsMasterSpeed
    wrN163Data wrMmc5Low wrMmc5Mid wrMmc5High wrVrc6Pulse1 wrVrc7Address wrVrc7Data
    wrVrc6Pulse2 wrVrc6Pulse2Top wrVrc6Saw wrVrc6SawTop wrS5bAddress wrS5bData wrN163Address
    wrOther rdStatus rdOther recP1 recP2 recTri recNoi recDmc recFds recOther
    mnop madd1 madd2 madd4 mrst msub4 msub2 msub1

end Sys2Proof.Laws.RoundTrip

namespace Sys2Proof

/-! What the decoder answers, kind by kind. -/

theorem kind_cases (k : BitVec 2) : k = 0#2 ∨ k = 1#2 ∨ k = 2#2 ∨ k = 3#2 := by
  revert k; decide

theorem decodeWord_kind0 (a : Addr) (d : Byte) :
    decodeWord (opWord 0#2 a d) = if a = 0#16 ∧ d = 0#8 then .ok .tick else .error .illFormedWord := by
  simp [decodeWord]

theorem decodeWord_kind2 (a : Addr) (d : Byte) :
    decodeWord (opWord 2#2 a d) = if d = 0#8 then .ok (decodeRead a) else .error .illFormedWord := by
  simp [decodeWord]

theorem decodeWord_kind3 (a : Addr) (d : Byte) :
    decodeWord (opWord 3#2 a d) = if a = 0#16 then .ok (decodeRecord d) else .error .illFormedWord := by
  simp [decodeWord]

/-- An operation word that decodes is a TICK, a WRITE, a READ or a RECORD word. -/
theorem decodeWord_ok_cases {w : OpWord} {i : Instr} (h : decodeWord w = .ok i) :
    (w = tickWord ∧ i = .tick) ∨ (∃ a d, w = writeWord a d ∧ i = decodeWrite a d) ∨
      (∃ a, w = readWord a ∧ i = decodeRead a) ∨ ∃ id, w = recordWord id ∧ i = decodeRecord id := by
  rw [← opWord_fields w] at h ⊢
  generalize wordKind w = k, wordAddr w = a, wordData w = d at h ⊢
  obtain rfl | rfl | rfl | rfl := kind_cases k
  · rw [decodeWord_kind0] at h
    split at h
    next hzero => obtain ⟨rfl, rfl⟩ := hzero; exact .inl ⟨rfl, (Except.ok.inj h).symm⟩
    next => contradiction
  · exact .inr (.inl ⟨a, d, rfl, (Except.ok.inj ((decodeWord_writeWord a d).symm.trans h)).symm⟩)
  · rw [decodeWord_kind2] at h
    split at h
    next hzero => subst hzero; exact .inr (.inr (.inl ⟨a, rfl, (Except.ok.inj h).symm⟩))
    next => contradiction
  · rw [decodeWord_kind3] at h
    split at h
    next hzero => subst hzero; exact .inr (.inr (.inr ⟨d, rfl, (Except.ok.inj h).symm⟩))
    next => contradiction

/-! What the decoder answers encodes back to the code it read. -/

theorem encode_decodeRead (a : Addr) :
    (decodeRead a).wf = true ∧ encode (decodeRead a) = .op (readWord a) := by
  rw [decodeRead]
  split
  next hstatus => subst hstatus; exact ⟨rfl, rfl⟩
  next hother =>
    have hne : a.toNat ≠ 0x4015 := fun e => hother (BitVec.eq_of_toNat_eq e)
    exact ⟨decide_eq_true hne, rfl⟩

theorem encode_decodeRecord (id : Byte) :
    (decodeRecord id).wf = true ∧ encode (decodeRecord id) = .op (recordWord id) := by
  rw [decodeRecord]
  iterate 6
    split
    next hid => subst hid; exact ⟨rfl, rfl⟩
  have hother : 6 ≤ id.toNat := by bv_omega
  exact ⟨decide_eq_true hother, rfl⟩

/-- A table entry that decodes is a command's one code. -/
theorem encode_of_decodeCommand {c : Byte} {i : Instr} (h : decodeCommand c = .ok i) :
    i.wf = true ∧ encode i = .command c := by
  rw [decodeCommand] at h
  iterate 8
    split at h
    next hc => obtain rfl := Except.ok.inj h; exact ⟨rfl, congrArg Code.command hc.symm⟩
  contradiction

/-- Settles O2: by the source of the code, and for an operation word by its kind. -/
theorem everyCodeHasOneMeaning : Obligations.EveryCodeHasOneMeaning := by
  intro c i h
  cases c with
  | command c => exact encode_of_decodeCommand h
  | op w =>
    obtain ⟨rfl, rfl⟩ | ⟨a, d, rfl, rfl⟩ | ⟨a, rfl, rfl⟩ | ⟨id, rfl, rfl⟩ := decodeWord_ok_cases h
    · exact ⟨rfl, rfl⟩
    · exact encode_decodeWrite a d
    · exact encode_decodeRead a
    · exact encode_decodeRecord id

end Sys2Proof

/-! ### Refusal at decode (rules R301, R903 and R904) -/

namespace Sys2Proof.Machine

/-- A refused operation leaves what the statements say it leaves. -/
theorem refuse_eq_refusedWith (c : Condition) (s : State) : refuse c s = s.refusedWith c := rfl

/-- A word that does not decode is taken and refused. -/
theorem step_of_decode_error {s : State} {w : OpWord} {rest : List OpWord} {c : Condition}
    (hops : s.host.ops = w :: rest) (hfaulted : s.dev.faulted = false) (hdecode : decodeWord w = .error c) :
    step s = .next ((s.tookOperation rest).refusedWith c) := by
  have hawake : stuck (s.tookOperation rest) = false := by rw [stuck_tookOperation, hfaulted]
  simp [step, nextOperation_of_ops hops, hawake, hdecode, refuse_eq_refusedWith]

/-- Settles O3: the word is that of its three fields; by the kind, and by whether the must-be-zero fields are zero. -/
theorem illFormedWordsAndNoOthersAreRefusedAtDecode :
    Obligations.IllFormedWordsAndNoOthersAreRefusedAtDecode := by
  intro s w rest hops hfaulted
  have hrefused := step_of_decode_error (c := .illFormedWord) hops hfaulted
  simp only [← wordKind_toNat, ← wordAddr_toNat, ← wordData_toNat, BitVec.ofNat_toNat, BitVec.setWidth_eq]
  have hfields : decodeWord w = decodeWord (opWord (wordKind w) (wordAddr w) (wordData w)) := by rw [opWord_fields]
  rw [hfields] at hrefused ⊢
  generalize wordKind w = k, wordAddr w = a, wordData w = d at hrefused ⊢
  obtain rfl | rfl | rfl | rfl := kind_cases k
  · by_cases hzero : a = 0#16 ∧ d = 0#8
    · rw [if_neg (by simp [hzero])]
      exact .inl ⟨rfl, by rw [decodeWord_kind0, if_pos hzero]⟩
    · rw [if_pos (.inl ⟨rfl, by simpa [← BitVec.toNat_inj, imp_iff_not_or] using hzero⟩)]
      exact hrefused (by rw [decodeWord_kind0, if_neg hzero])
  · rw [if_neg (by simp)]
    exact .inr (.inl ⟨rfl, decodeWord_writeWord a d⟩)
  · by_cases hzero : d = 0#8
    · rw [if_neg (by simp [hzero])]
      exact .inr (.inr (.inl ⟨rfl, by rw [decodeWord_kind2, if_pos hzero]⟩))
    · rw [if_pos (.inr (.inl ⟨rfl, by simpa [← BitVec.toNat_inj] using hzero⟩))]
      exact hrefused (by rw [decodeWord_kind2, if_neg hzero])
  · by_cases hzero : a = 0#16
    · rw [if_neg (by simp [hzero])]
      exact .inr (.inr (.inr ⟨rfl, by rw [decodeWord_kind3, if_pos hzero]⟩))
    · rw [if_pos (.inr (.inr ⟨rfl, by simpa [← BitVec.toNat_inj] using hzero⟩))]
      exact hrefused (by rw [decodeWord_kind3, if_neg hzero])

/-! ### The spec's example words (rule R324) -/

/-- Settles O4: each word is a literal, and the decoder is run on it. -/
theorem specExampleWordsDecode : Obligations.SpecExampleWordsDecode := by
  unfold Obligations.SpecExampleWordsDecode
  decide

/-! ### Undecoded and refused operations (rules R302, R311, R312, R314 and R903) -/

/-- A bit that a mask keeps. -/
theorem bit_and_mask (d mask : Byte) (i : Nat) (h : mask.getLsbD i = true) : bit (d &&& mask) i = bit d i := by
  simp [bit, h]

/-- A field that a mask keeps. -/
theorem extract_and_mask (d mask : Byte) (lo n : Nat) (h : mask.extractLsb' lo n = BitVec.allOnes n) :
    (d &&& mask).extractLsb' lo n = d.extractLsb' lo n := by
  rw [BitVec.extractLsb'_and, h, BitVec.and_allOnes]

/-- A WRITE the block does not decode has no effect, at each of its addresses. -/
theorem undecodedWrite_noEffect (a : Addr) (d : Byte) (s : State)
    (h : a.toNat ∈ [0x4009, 0x400D, 0x4014, 0x4016, 0x4081] ∨ namedWriteAddress a = false) :
    ∃ i, decodeWord (writeWord a d) = .ok i ∧ exec i s = .next s := by
  obtain hunused | hother := h
  · have hlist : a ∈ [0x4009#16, 0x400D#16, 0x4014#16, 0x4016#16, 0x4081#16] := by
      simpa [← BitVec.toNat_inj] using hunused
    simp only [List.mem_cons, List.not_mem_nil, or_false] at hlist
    obtain rfl | rfl | rfl | rfl | rfl := hlist <;> exact ⟨_, decodeWord_writeWord _ d, rfl⟩
  · exact ⟨.wrOther a d, by rw [decodeWord_writeWord, decodeWrite_other a d hother], rfl⟩

/-! Each register reads the data byte by bits and fields that its mask keeps (rule R310). -/

theorem noiseControl_and_mask (d : Byte) : noiseControl (d &&& 0x3F#8) = noiseControl d := by
  funext n; simp (disch := decide) only [noiseControl, bit_and_mask, extract_and_mask]

theorem noiseMode_and_mask (d : Byte) : noiseMode (d &&& 0x8F#8) = noiseMode d := by
  funext n; simp (disch := decide) only [noiseMode, bit_and_mask, extract_and_mask]

theorem noiseLength_and_mask (d : Byte) : noiseLength (d &&& 0xF8#8) = noiseLength d := by
  funext n; simp (disch := decide) only [noiseLength, lengthOf, extract_and_mask]

theorem dmcControl_and_mask (d : Byte) : dmcControl (d &&& 0xCF#8) = dmcControl d := by
  funext m; simp (disch := decide) only [dmcControl, bit_and_mask, extract_and_mask]

theorem dmcLoad_and_mask (d : Byte) : dmcLoad (d &&& 0x7F#8) = dmcLoad d := by
  funext m; simp (disch := decide) only [dmcLoad, extract_and_mask]

theorem statusWrite_and_mask (d : Byte) : statusWrite (d &&& 0x1F#8) = statusWrite d := by
  funext a; simp (disch := decide) only [statusWrite, bit_and_mask]

theorem frameWrite_and_mask (d : Byte) : frameWrite (d &&& 0xC0#8) = frameWrite d := by
  funext cycle f; simp (disch := decide) only [frameWrite, bit_and_mask]

theorem waveFreqHigh_and_mask (resets : Bool) (d : Byte) :
    waveFreqHigh resets (d &&& 0xCF#8) = waveFreqHigh resets d := by
  funext w; simp (disch := decide) only [waveFreqHigh, withHigh16, bit_and_mask, extract_and_mask]

theorem modFreqHigh_and_mask (d : Byte) : modFreqHigh (d &&& 0x8F#8) = modFreqHigh d := by
  funext m; simp (disch := decide) only [modFreqHigh, withHigh12, bit_and_mask, extract_and_mask]

theorem modTableWrite_and_mask (k : ModTableWriteModel) (d : Byte) :
    modTableWrite k (d &&& 0x07#8) = modTableWrite k d := by
  funext m; simp (disch := decide) only [modTableWrite, extract_and_mask]

/-- Settles O9: the meanings without effect by their definitions, and each register by its mask. -/
theorem undecodedWritesAndIgnoredBitsHaveNoEffect : Obligations.UndecodedWritesAndIgnoredBitsHaveNoEffect := by
  intro a d s
  refine ⟨⟨rfl, rfl, rfl, rfl, rfl, rfl⟩, undecodedWrite_noEffect a d s, ?_, ?_, ?_, ?_, ?_, ?_, ?_, ?_, ?_, ?_, ?_, ?_⟩
  · simp only [exec, execWrNoiseControl, noiseControl_and_mask]
  · simp only [exec, execWrNoiseMode, noiseMode_and_mask]
  · simp only [exec, execWrNoiseLength, noiseLength_and_mask]
  · simp only [exec, execWrDmcControl, dmcControl_and_mask]
  · simp only [exec, execWrDmcLoad, dmcLoad_and_mask]
  · simp only [exec, execWrStatus, statusWrite_and_mask]
  · simp only [exec, execWrFrameCounter, frameWrite_and_mask]
  · simp only [exec, execWrFdsWaveFreqHigh, waveFreqHigh_and_mask]
  · simp (disch := decide) only [exec, execWrFdsModPosition, extract_and_mask]
  · simp only [exec, execWrFdsModFreqHigh, modFreqHigh_and_mask]
  · simp only [exec, execWrFdsModTable, modTableWrite_and_mask]
  · simp (disch := decide) only [exec, execWrFdsWaveConfig, bit_and_mask, extract_and_mask]

/-- A word in an aligned range is the range's top bits with low bits of its own. -/
theorem exists_low_bits {m n : Nat} (a : BitVec (m + n)) (c : BitVec m) (h : a.toNat / 2 ^ n = c.toNat) :
    ∃ i : BitVec n, a = c ++ i :=
  ⟨a.extractLsb' 0 n, BitVec.eq_of_toNat_eq (by
    rw [append_toNat, BitVec.extractLsb'_toNat, Nat.shiftRight_zero, ← h, Nat.div_add_mod'])⟩

/-- A WRITE at an address that decodes to a refused instruction is refused. -/
theorem refusedWrite_of_decodeWrite {a : Addr} {d : Byte} {s : State} {c : Condition} {i : Instr}
    (hdecode : decodeWrite a d = i) (hexec : exec i s = .next (s.refusedWith c)) :
    ∃ i, decodeWord (writeWord a d) = .ok i ∧ exec i s = .next (s.refusedWith c) :=
  ⟨i, by rw [decodeWord_writeWord, hdecode], hexec⟩

/-- Every address of an expansion-chip register decodes to a refused WRITE: a single address by running the decoder, an
aligned range by the row's lemma (rule R312). -/
theorem expansionAddress_refused (a : Addr) (d : Byte) (s : State)
    (h : a ∈ [0x4800#16, 0x9010#16, 0x9030#16, 0xA002#16, 0xB002#16, 0xC000#16, 0xE000#16, 0xF800#16] ∨
      a.toNat / 2 ^ 4 = 0x500 ∨ a.toNat / 2 ^ 2 = 0x1404 ∨ a.toNat / 2 ^ 1 = 0x280A ∨ a.toNat / 2 ^ 2 = 0x2400 ∨
      a.toNat / 2 ^ 1 = 0x5000 ∨ a.toNat / 2 ^ 1 = 0x5800) :
    ∃ i, decodeWord (writeWord a d) = .ok i ∧ exec i s = .next (s.refusedWith .unmodelledExpansion) := by
  obtain hsingle | hmmc5Low | hmmc5Mid | hmmc5High | hvrc6Pulse1 | hvrc6Pulse2 | hvrc6Saw := h
  · simp only [List.mem_cons, List.not_mem_nil, or_false] at hsingle
    obtain rfl | rfl | rfl | rfl | rfl | rfl | rfl | rfl := hsingle <;>
      exact ⟨_, decodeWord_writeWord _ d, rfl⟩
  · obtain ⟨i, rfl⟩ := exists_low_bits (n := 4) a 0x500#12 hmmc5Low
    exact refusedWrite_of_decodeWrite (decodeWrite_mmc5Low i d) rfl
  · obtain ⟨i, rfl⟩ := exists_low_bits (n := 2) a 0x1404#14 hmmc5Mid
    exact refusedWrite_of_decodeWrite (decodeWrite_mmc5Mid i d) rfl
  · obtain ⟨i, rfl⟩ := exists_low_bits (n := 1) a 0x280A#15 hmmc5High
    exact refusedWrite_of_decodeWrite (decodeWrite_mmc5High i d) rfl
  · obtain ⟨i, rfl⟩ := exists_low_bits (n := 2) a 0x2400#14 hvrc6Pulse1
    exact refusedWrite_of_decodeWrite (decodeWrite_vrc6Pulse1 i d) rfl
  · obtain ⟨i, rfl⟩ := exists_low_bits (n := 1) a 0x5000#15 hvrc6Pulse2
    exact refusedWrite_of_decodeWrite (decodeWrite_vrc6Pulse2 i d) rfl
  · obtain ⟨i, rfl⟩ := exists_low_bits (n := 1) a 0x5800#15 hvrc6Saw
    exact refusedWrite_of_decodeWrite (decodeWrite_vrc6Saw i d) rfl

/-- Settles O10: the meanings by their definitions, and the rule's ranges as single addresses and aligned ranges. -/
theorem expansionWritesAreRefused : Obligations.ExpansionWritesAreRefused := by
  refine ⟨fun _ _ _ _ _ => ⟨rfl, rfl, rfl, rfl, rfl, rfl, rfl, rfl, rfl, rfl, rfl, rfl, rfl, rfl⟩, fun a d s h => ?_⟩
  refine expansionAddress_refused a d s ?_
  simp only [List.mem_cons, List.not_mem_nil, or_false, ← BitVec.toNat_inj, BitVec.toNat_ofNat]
  omega

/-- Settles O11: the meanings and the six named ids by their definitions, the fallback rows by the decoder's lemmas. -/
theorem otherReadsAndRecordsAreRefused : Obligations.OtherReadsAndRecordsAreRefused := by
  refine ⟨fun _ _ => rfl, fun _ _ => rfl, fun a ha => ?_, fun id hid => ?_, rfl, rfl, rfl, rfl, rfl, rfl⟩
  · have hother : a ≠ 0x4015#16 := fun e => ha (congrArg BitVec.toNat e)
    rw [decodeWord_readWord, decodeRead, if_neg hother]
  · rw [decodeWord_recordWord, decodeRecord_other id hid]

/-! ### Modulator commands (rules R320 and R456) -/

theorem givesMod_movePosition {i : Instr} {s : State} {g : BitVec 7 → BitVec 7} {n : Nat}
    (hexec : exec i s = .next (movePosition g s)) (hn : (g s.fds.mod.position).toNat = n) :
    ∃ m, GivesMod i s m ∧ m = { s.fds.mod with position := m.position } ∧ m.position.toNat = n :=
  ⟨{ s.fds.mod with position := g s.fds.mod.position }, hexec, rfl, hn⟩

/-- Settles O40: each command moves the position, by an addition or subtraction of 7-bit numbers. -/
theorem modulatorCommandsMoveThePosition : Obligations.ModulatorCommandsMoveThePosition := by
  intro s
  have hadd (x : BitVec 7) : (s.fds.mod.position + x).toNat = (s.fds.mod.position.toNat + x.toNat) % 128 :=
    BitVec.toNat_add _ x
  have hsub (x : BitVec 7) : (s.fds.mod.position - x).toNat = (s.fds.mod.position.toNat + (128 - x.toNat)) % 128 := by
    rw [BitVec.toNat_sub, Nat.add_comm]
  exact ⟨rfl, givesMod_movePosition rfl (hadd 1), givesMod_movePosition rfl (hadd 2),
    givesMod_movePosition rfl (hadd 4), givesMod_movePosition rfl rfl, givesMod_movePosition rfl (hsub 4),
    givesMod_movePosition rfl (hsub 2), givesMod_movePosition rfl (hsub 1)⟩

end Sys2Proof.Machine

/-! ### FDS register writes (rules R401 to R411 and R1015) -/

namespace Sys2Proof.Machine

theorem onWave_eq_self {f : FdsWave → FdsWave} {s : State} (h : f s.fds.wave = s.fds.wave) : onWave f s = s := by
  rw [onWave, h]; rfl

theorem onMod_eq_self {f : FdsMod → FdsMod} {s : State} (h : f s.fds.mod = s.fds.mod) : onMod f s = s := by
  rw [onMod, h]; rfl

theorem givesWave_of_onWave {i : Instr} {s : State} {f : FdsWave → FdsWave} {w : FdsWave}
    (hexec : exec i s = .next (onWave f s)) (hw : f s.fds.wave = w) : GivesWave i s w := by
  rw [GivesWave, hexec, onWave, hw]; rfl

theorem givesMod_of_onMod {i : Instr} {s : State} {f : FdsMod → FdsMod} {m : FdsMod}
    (hexec : exec i s = .next (onMod f s)) (hm : f s.fds.mod = m) : GivesMod i s m := by
  rw [GivesMod, hexec, onMod, hm]; rfl

/-- A field of the data byte read as a number is the bit vector the meanings take. -/
theorem ofNat_field (d : Byte) (hi lo : Nat) :
    BitVec.ofNat (hi - lo + 1) (field d hi lo) = d.extractLsb' lo (hi - lo + 1) := by
  rw [← extract_eq_field, BitVec.ofNat_toNat, BitVec.setWidth_eq]

/-! The wave RAM (rule R401). -/

theorem waveRamWrite_of_not_writeEnable (mask i : BitVec 6) (d : Byte) {w : FdsWave} (h : w.writeEnable = false) :
    waveRamWrite mask i d w = w := by
  simp [waveRamWrite, h]

theorem waveRamWrite_of_writeEnable (mask i : BitVec 6) (d : Byte) {w : FdsWave} (h : w.writeEnable = true) :
    waveRamWrite mask i d w = setWaveEntry w i (BitVec.ofNat 6 (field d 5 0) &&& mask) := by
  rw [waveRamWrite, if_pos h, ← ofNat_field d 5 0]

/-- Settles O34: by the gate; the open one replaces one entry. (The name `waveRamWrite` is the model's function.) -/
theorem waveRamWriteIsGatedAndMasked : Obligations.WaveRamWrite := by
  intro i d s
  refine ⟨fun hclosed => ?_, fun hopen => ?_⟩
  · exact congrArg Host.Outcome.next (onWave_eq_self (waveRamWrite_of_not_writeEnable _ i d hclosed))
  · exact ⟨_, givesWave_of_onWave rfl (waveRamWrite_of_writeEnable _ i d hopen), rfl, waveEntry_set_self _ _ _,
      fun j hj => waveEntry_set_ne _ _ hj⟩

/-! The envelope configurations (rules R402 and R405). -/

theorem envConfig_output_of_disable {d : Byte} (e : FdsEnv) (h : flag d 7 = true) :
    (envConfig d e).output.toNat = field d 5 0 := by
  rw [envConfig, bit_eq_flag, if_pos h]; exact extract_eq_field d 5 0

theorem envConfig_output_of_enable {d : Byte} (e : FdsEnv) (h : flag d 7 = false) :
    (envConfig d e).output = e.output := by
  simp [envConfig, bit_eq_flag, h]

/-- Settles O35: both envelopes are configured by one function, whose fields are those of the data byte. -/
theorem envelopeConfigWrites : Obligations.EnvelopeConfigWrites := by
  intro d s
  exact ⟨envConfig d s.fds.volEnv, envConfig d s.fds.modEnv, rfl, rfl,
    extract_eq_field d 5 0, bit_eq_flag d 7, bit_eq_flag d 6, rfl,
    envConfig_output_of_disable _, envConfig_output_of_enable _,
    extract_eq_field d 5 0, bit_eq_flag d 7, bit_eq_flag d 6, rfl,
    envConfig_output_of_disable _, envConfig_output_of_enable _⟩

/-! The wave frequency and halts (rules R403 and R404). -/

/-- The latch is kept or set: it is set when the new envelope halt differs from the old one. -/
theorem latch_or_change (latch new old : Bool) : (latch || (new != old)) = if new = old then latch else true := by
  by_cases h : new = old <;> simp [h]

theorem waveFreqHigh_eq (resets : Bool) (d : Byte) (w : FdsWave) :
    waveFreqHigh resets d w =
      { w with frequency := withHigh16 w.frequency d, halt := flag d 7, envHalt := flag d 6,
               envHaltLatch := if flag d 6 = w.envHalt then w.envHaltLatch else true,
               phase := if flag d 7 = true ∧ resets = true then 0 else w.phase } := by
  simp only [waveFreqHigh, bit_eq_flag, latch_or_change, Bool.and_eq_true]

/-- Settles O36: each write by its function, the frequencies by their low and high bytes. -/
theorem waveFrequencyWrites : Obligations.WaveFrequencyWrites := by
  intro d s
  exact ⟨⟨_, givesWave_of_onWave rfl rfl, withLow16_toNat _ d, rfl⟩,
    ⟨_, givesWave_of_onWave rfl (waveFreqHigh_eq _ d _), withHigh16_toNat _ d, rfl⟩⟩

/-! The modulator's position, frequency and halt (rules R406 to R408). -/

/-- A halt keeps the table index of the phase and clears the 16 bits below it. -/
theorem modFreqHigh_phase_toNat (d : Byte) (m : FdsMod) :
    (modFreqHigh d m).phase.toNat =
      if flag d 7 then m.phase.toNat / 0x10000 * 0x10000 else m.phase.toNat := by
  simp only [modFreqHigh, bit_eq_flag]
  split
  · simp only [append_toNat, tableIndex_toNat, BitVec.toNat_zero, Nat.add_zero, Nat.reducePow]
  · rfl

theorem modFreqHigh_eq (d : Byte) (m : FdsMod) :
    modFreqHigh d m =
      { m with frequency := withHigh12 m.frequency d, halt := flag d 7, phase := (modFreqHigh d m).phase } := by
  rw [← bit_eq_flag]; rfl

/-- Settles O37: each write by its function, the phase of a halt by its top six bits. -/
theorem modulatorRegisterWrites : Obligations.ModulatorRegisterWrites := by
  intro d s
  exact ⟨⟨_, givesMod_of_onMod rfl rfl, extract_eq_field d 6 0, rfl⟩,
    ⟨_, givesMod_of_onMod rfl rfl, withLow12_toNat _ d, rfl⟩,
    ⟨_, givesMod_of_onMod rfl rfl, withHigh12_toNat _ d, modFreqHigh_phase_toNat d _, modFreqHigh_eq d _⟩⟩

/-! The modulation table under the default `MOD_TABLE_WRITE_MODEL` (rules R409 and R1015). -/

theorem modTableWriteTwo_of_running (c : BitVec 3) {m : FdsMod} (h : m.halt = false) : modTableWriteTwo c m = m := by
  simp [modTableWriteTwo, h]

theorem modTableWriteTwo_writePos (c : BitVec 3) {m : FdsMod} (h : m.halt = true) :
    (modTableWriteTwo c m).writePos.toNat = (m.writePos.toNat + 2) % 64 := by
  rw [modTableWriteTwo, if_pos h]; exact BitVec.toNat_add m.writePos 2

/-- While halted, the entry at the write position and the next one become the command, and no other entry changes. -/
theorem modEntry_modTableWriteTwo (c : BitVec 3) {m : FdsMod} (h : m.halt = true) (j : BitVec 6) :
    modEntry (modTableWriteTwo c m) j =
      if j = m.writePos ∨ j = m.writePos + 1 then c.setWidth 8 else modEntry m j := by
  rw [modTableWriteTwo, if_pos h]
  change modEntry (setModEntry (setModEntry m m.writePos _) (m.writePos + 1) _) j = _
  by_cases hsecond : j = m.writePos + 1
  · rw [if_pos (.inr hsecond), hsecond, modEntry_set_self]
  · rw [modEntry_set_ne _ _ hsecond]
    by_cases hfirst : j = m.writePos
    · rw [if_pos (.inl hfirst), hfirst, modEntry_set_self]
    · rw [modEntry_set_ne _ _ hfirst, if_neg (not_or.mpr ⟨hfirst, hsecond⟩)]

/-- The command a table entry holds is `d[2:0]`. -/
theorem command_toNat (d : Byte) : ((d.extractLsb' 0 3).setWidth 8).toNat = field d 2 0 := by
  rw [BitVec.toNat_setWidth_of_le (by decide)]; exact extract_eq_field d 2 0

theorem modTableWrite_default {k : ModTableWriteModel} (hk : k = .twoEntriesWhileHalted) (d : Byte) (m : FdsMod) :
    modTableWrite k d m = modTableWriteTwo (d.extractLsb' 0 3) m := by
  rw [hk]; rfl

/-- Settles O38: the default model by its halt; the frame under every model by what each table write keeps. -/
theorem modulationTableWrite : Obligations.ModulationTableWrite := by
  intro d s
  have hkeeps := modTableWrite_keeps s.params.modTableWriteModel d s.fds.mod
  refine ⟨fun hdefault => ⟨fun hrunning => ?_, fun hhalted => ?_⟩, ?_⟩
  · refine congrArg Host.Outcome.next (onMod_eq_self ?_)
    rw [modTableWrite_default hdefault, modTableWriteTwo_of_running _ hrunning]
  · rw [modTableWrite_default hdefault] at hkeeps
    refine ⟨_, givesMod_of_onMod rfl (modTableWrite_default hdefault d _), hkeeps,
      modTableWriteTwo_writePos _ hhalted, fun j => ?_⟩
    rw [modEntry_modTableWriteTwo _ hhalted, apply_ite BitVec.toNat, command_toNat]
  · exact ⟨_, givesMod_of_onMod rfl rfl, hkeeps, modTableWrite_legal _ d⟩

/-- Settles O39: both writes by their definitions, the fields of the data byte as numbers. -/
theorem waveConfigAndMasterSpeedWrites : Obligations.WaveConfigAndMasterSpeedWrites := by
  intro d s
  exact ⟨⟨_, givesWave_of_onWave rfl rfl, bit_eq_flag d 7, extract_eq_field d 1 0, rfl⟩, rfl⟩

end Sys2Proof.Machine

/-! ### The modulator clock (rules R455, R456 and R320) -/

namespace Sys2Proof.Machine

/-- A byte `0..7` decodes to a command, whose meaning is the one `ModExec` runs. -/
theorem decodeCommand_of_lt {c : Byte} (h : c.toNat < 8) :
    ∃ i, decodeCommand c = .ok i ∧ ∀ s, exec i s = modExec c s := by
  have hcommands : c = 0#8 ∨ c = 1#8 ∨ c = 2#8 ∨ c = 3#8 ∨ c = 4#8 ∨ c = 5#8 ∨ c = 6#8 ∨ c = 7#8 := by bv_omega
  obtain rfl | rfl | rfl | rfl | rfl | rfl | rfl | rfl := hcommands <;> exact ⟨_, rfl, fun _ => rfl⟩

/-- Any other byte is none of the eight commands. -/
theorem decodeCommand_of_ge {c : Byte} (h : 8 ≤ c.toNat) : decodeCommand c = .error .badModCommand := by
  have hne (k : Byte) (hk : k.toNat < 8) : c ≠ k := fun e => by subst e; omega
  simp [decodeCommand, hne]

/-- The entry at the position is the one at the position modulo 64. -/
theorem modCommandIndex_position (m : FdsMod) :
    modCommandIndex .position m = BitVec.ofNat 6 (m.position.toNat % 64) := by
  apply BitVec.eq_of_toNat_eq
  simp [modCommandIndex, BitVec.extractLsb'_toNat]

theorem modCommandIndex_boundary (m : FdsMod) :
    modCommandIndex .boundary m = BitVec.ofNat 6 (m.phase.toNat / 0x10000) := tableIndex_eq_ofNat m.phase

theorem modClock_of_halt {s : State} (h : s.fds.mod.halt = true) : modClock s = .next s := by
  rw [modClock, if_pos h]

theorem modCrosses_of_lt {m : FdsMod} (hrun : m.halt = false)
    (hcross : m.phase.toNat / 0x10000 < modNewPhase m / 0x10000) :
    modCrosses m = true := by
  simp [modCrosses, hrun, hcross]

theorem modClock_of_not_crosses {s : State} (hrun : s.fds.mod.halt = false)
    (hinside : modNewPhase s.fds.mod / 0x10000 = s.fds.mod.phase.toNat / 0x10000) :
    modClock s = .next (modAdvance s.fds.mod s) := by
  simp [modClock, modCrosses, hrun, hinside]

theorem modClock_of_crosses {s t : State} (hrun : s.fds.mod.halt = false)
    (hcross : s.fds.mod.phase.toNat / 0x10000 < modNewPhase s.fds.mod / 0x10000)
    (hexec : modExec (modCommand s) s = .next t) : modClock s = .next (modAdvance s.fds.mod t) := by
  simp [modClock, hrun, modCrosses_of_lt hrun hcross, hexec]

theorem modClock_of_bad {s : State} (hrun : s.fds.mod.halt = false)
    (hcross : s.fds.mod.phase.toNat / 0x10000 < modNewPhase s.fds.mod / 0x10000)
    (hbad : 8 ≤ (modCommand s).toNat) : modClock s = .fault .badModCommand := by
  simp [modClock, hrun, modCrosses_of_lt hrun hcross, modExec_bad _ s hbad]

/-- A 12-bit frequency is less than a table entry's width, so a clock crosses at most one boundary (log entry 16). -/
theorem modNewPhase_le_next_entry (m : FdsMod) : modNewPhase m / 0x10000 ≤ m.phase.toNat / 0x10000 + 1 := by
  have hfrequency := m.frequency.isLt
  rw [modNewPhase]
  omega

/-- Settles O6: by whether the modulator runs and crosses a boundary, and there by the decoded entry. -/
theorem modulatorClockRunsTheDecodedEntry : Obligations.ModulatorClockRunsTheDecodedEntry := by
  intro s
  refine ⟨fun hindex => ?_, fun hindex => ?_, modClock_of_halt, modClock_of_not_crosses, fun hrun hcross =>
    ⟨le_antisymm (modNewPhase_le_next_entry s.fds.mod) hcross, fun hlegal => ?_,
      fun hbad => ⟨decodeCommand_of_ge hbad, modClock_of_bad hrun hcross hbad⟩⟩⟩
  · rw [modCommand, hindex, modCommandIndex_position]
  · rw [modCommand, hindex, modCommandIndex_boundary]
  · obtain ⟨i, hdecode, hmeaning⟩ := decodeCommand_of_lt hlegal
    obtain ⟨p, hexec⟩ := modExec_command _ s hlegal
    obtain ⟨-, hencode⟩ := encode_of_decodeCommand hdecode
    exact ⟨i, _, hdecode, hencode, (hmeaning s).trans hexec, modClock_of_crosses hrun hcross hexec⟩

end Sys2Proof.Machine

/-! ### The envelope clock (rules R451 and R471) -/

namespace Sys2Proof.Machine

theorem envPeriod_eq (speed : Byte) (e : FdsEnv) : envPeriod speed e = (e.speed.toNat + 1) * speed.toNat * 8 :=
  Nat.shiftLeft_eq _ 3

theorem envPeriod_pos {speed : Byte} (h : speed ≠ 0) (e : FdsEnv) : 0 < envPeriod speed e := by
  have hspeed : 0 < speed.toNat := by bv_omega
  rw [envPeriod_eq]
  positivity

theorem envStepOutput_toNat (increase : Bool) (o : BitVec 6) :
    (envStepOutput increase o).toNat =
      if increase then (if o.toNat < 32 then o.toNat + 1 else o.toNat) else o.toNat - 1 := by
  cases increase with
  | true => simp only [envStepOutput, if_true]; split <;> bv_omega
  | false => simp only [envStepOutput, Bool.false_eq_true, if_false]; split <;> bv_omega

/-- The clamp of rule R471: no number of steps takes an output above 32, nor above where it began. -/
theorem envStepsOutput_le (increase : Bool) (k : Nat) (o : BitVec 6) :
    (envStepsOutput increase k o).toNat ≤ max o.toNat 32 := by
  induction k generalizing o with
  | zero => exact le_max_left _ _
  | succ k ih =>
    have hstep : (envStepOutput increase o).toNat ≤ max o.toNat 32 := by
      rw [envStepOutput_toNat]; split_ifs <;> omega
    exact (ih _).trans (max_le hstep (le_max_right _ _))

theorem envClock_of_disable {e : FdsEnv} (speed : Byte) (h : e.disable = true) : envClock speed e = e := by
  rw [envClock, if_pos h]

theorem envClock_of_enable {e : FdsEnv} (speed : Byte) (h : e.disable = false) :
    envClock speed e = { e with
      timer := (e.timer + 1) % envPeriod speed e,
      output := envStepsOutput e.increase ((e.timer + 1) / envPeriod speed e) e.output } := by
  simp [envClock, h]

theorem envClock_output_le (speed : Byte) (e : FdsEnv) : (envClock speed e).output.toNat ≤ max e.output.toNat 32 := by
  cases h : e.disable with
  | true => rw [envClock_of_disable speed h]; exact le_max_left _ _
  | false => rw [envClock_of_enable speed h]; exact envStepsOutput_le _ _ _

/-- Settles O41: below the period the loop does not turn, at it once, and its remainder is below it. -/
theorem envelopeClock : Obligations.EnvelopeClock := by
  intro speed e hspeed
  have hpos := envPeriod_pos hspeed e
  have hclamp := envClock_output_le speed e
  rw [← envPeriod_eq]
  refine ⟨envClock_of_disable speed, fun henable hbelow => ?_, fun henable hat => ?_, fun hlow => ?_, fun hhigh => ?_,
    fun henable => ?_⟩
  · rw [envClock_of_enable speed henable, Nat.mod_eq_of_lt hbelow, Nat.div_eq_of_lt hbelow]; rfl
  · refine ⟨envStepOutput e.increase e.output, ?_, envStepOutput_toNat _ _⟩
    rw [envClock_of_enable speed henable, hat, Nat.mod_self, Nat.div_self hpos]; rfl
  · rwa [max_eq_right hlow] at hclamp
  · rwa [max_eq_left hhigh.le] at hclamp
  · rw [envClock_of_enable speed henable]; exact Nat.mod_lt _ hpos

end Sys2Proof.Machine

/-! ### The modulation quantity and the wave clock (rules R460 and R461) -/

namespace Sys2Proof.Machine

theorem pos7_eq (p : BitVec 7) : pos7 p = if p.toNat < 64 then (p.toNat : Int) else (p.toNat : Int) - 128 := by
  have hp := p.isLt
  have hsign : p.getLsbD 6 = decide (64 ≤ p.toNat) := by
    rw [BitVec.getLsbD, Nat.testBit_eq_decide_div_mod_eq]
    exact decide_eq_decide.mpr (by omega)
  rw [pos7, hsign]
  simp only [decide_eq_true_eq]
  split_ifs <;> omega

theorem modQRound_eq (s x : Int) :
    modQRound s x = x.fdiv 16 +
      (if x.fmod 16 ≠ 0 ∧ ((x.fdiv 16).fdiv 128).fmod 2 = 0 then (if s < 0 then -1 else 2) else 0) := by
  simp only [modQRound, Int.fdiv_eq_ediv_of_nonneg _ (show (0 : Int) ≤ 16 by decide),
    Int.fdiv_eq_ediv_of_nonneg _ (show (0 : Int) ≤ 128 by decide),
    Int.fmod_eq_emod_of_nonneg _ (show (0 : Int) ≤ 16 by decide),
    Int.fmod_eq_emod_of_nonneg _ (show (0 : Int) ≤ 2 by decide)]
  split_ifs <;> omega

theorem modQNormal_bounds (r : Int) : -64 ≤ modQNormal r ∧ modQNormal r < 192 := by
  rw [modQNormal]; omega

theorem modQNormal_congr (r : Int) : ∃ k : Int, modQNormal r = r + 256 * k :=
  ⟨-((r + 64) / 256), by rw [modQNormal]; omega⟩

theorem modQScale_eq (u : Int) : modQScale u = u.fdiv 64 + (if u.fmod 64 ≥ 32 then 1 else 0) := by
  rw [modQScale, Int.fdiv_eq_ediv_of_nonneg _ (by decide), Int.fmod_eq_emod_of_nonneg _ (by decide)]
  split <;> omega

/-- The scaling rounds to the nearest, so it keeps bounds that are multiples of 64. -/
theorem modQScale_bounds {u f : Int} (hlow : -64 * f ≤ u) (hhigh : u ≤ 192 * f) :
    -f ≤ modQScale u ∧ modQScale u ≤ 3 * f := by
  rw [modQScale]; split <;> omega

theorem modQ_gain_zero (p : BitVec 7) (f : BitVec 16) : modQ p 0 f = 0 := if_pos rfl

theorem modQ_of_gain {g : BitVec 6} (hg : g ≠ 0) (p : BitVec 7) (f : BitVec 16) :
    modQ p g f = modQScale (modQNormal (modQRound (pos7 p) (pos7 p * g.toNat)) * f.toNat) := if_neg hg

theorem modQ_position_zero (g : BitVec 6) (f : BitVec 16) : modQ 0 g f = 0 := by
  by_cases hg : g = 0
  · rw [hg, modQ_gain_zero]
  · have hnormal : modQNormal (modQRound 0 0) = 0 := rfl
    have hpos : pos7 0 = 0 := rfl
    rw [modQ_of_gain hg, hpos, Int.zero_mul, hnormal, Int.zero_mul]; rfl

/-- The normalised product is in `[-64, 192)`, so the quantity is in `[-f, 3f]`. -/
theorem modQ_bounds (p : BitVec 7) (g : BitVec 6) (f : BitVec 16) :
    -(f.toNat : Int) ≤ modQ p g f ∧ modQ p g f ≤ 3 * (f.toNat : Int) := by
  by_cases hg : g = 0
  · rw [hg, modQ_gain_zero]; omega
  · obtain ⟨hlow, hhigh⟩ := modQNormal_bounds (modQRound (pos7 p) (pos7 p * g.toNat))
    have hf : (0 : Int) ≤ f.toNat := Int.natCast_nonneg _
    rw [modQ_of_gain hg]
    exact modQScale_bounds (mul_le_mul_of_nonneg_right hlow hf) (mul_le_mul_of_nonneg_right hhigh.le hf)

/-- Settles O42: each step of the rule by the equation of its function, and the bounds of the scaled product. -/
theorem modulationQuantity : Obligations.ModulationQuantity := by
  intro p g f
  obtain ⟨hlow, hhigh⟩ := modQ_bounds p g f
  refine ⟨fun hg => hg ▸ modQ_gain_zero p f, fun hg => ?_, hlow, hhigh, by omega, modQ_position_zero g f⟩
  obtain ⟨htlow, hthigh⟩ := modQNormal_bounds (modQRound (pos7 p) (pos7 p * g.toNat))
  exact ⟨_, _, _, _, _, pos7_eq p, rfl, modQRound_eq _ _, htlow, hthigh, modQNormal_congr _, rfl,
    (modQ_of_gain hg p f).trans (modQScale_eq _)⟩

theorem waveClock_of_halt {f : Fds} (h : f.wave.halt = true) :
    waveClock f = { f with wave := { f.wave with envHaltLatch := false } } := if_pos h

theorem waveClock_of_running {f : Fds} (h : f.wave.halt = false) :
    waveClock f = { f with wave := { f.wave with
      envHaltLatch := false
      phase := BitVec.ofInt 22 ((f.wave.phase.toNat : Int) + waveIncrement f)
      tickFreq := waveIncrement f } } := by
  simp [waveClock, h]

/-- Settles O43: halted and running; a 22-bit phase is the sum modulo `2^22`. (The name `waveClock` is the model's
function.) -/
theorem waveClockAddsTheIncrement : Obligations.WaveClock := by
  intro f
  refine ⟨waveClock_of_halt, fun hrun => ⟨_, ?_, waveClock_of_running hrun⟩⟩
  rw [BitVec.toNat_ofInt, Int.toNat_of_nonneg (Int.emod_nonneg _ (by decide))]
  rfl

end Sys2Proof.Machine

/-! ### The FDS output (rules R466 and R520) -/

namespace Sys2Proof.Machine

theorem fdsLevel_eq (f : Fds) :
    fdsLevel f = ((waveEntry f.wave (BitVec.ofNat 6 (f.wave.phase.toNat / 0x10000))).toNat : Rat) *
      (min f.volEnv.output.toNat 32 : Nat) * 2 / (f.wave.masterVolume.toNat + 2) := by
  rw [fdsLevel, Rat.mkRat_eq_div, tableIndex_eq_ofNat, cappedVolume]
  push_cast
  rfl

theorem fdsOutput_of_writeEnable (a1 : Rat) (i : BitVec 6) {f : Fds} (h : f.wave.writeEnable = true) :
    fdsOutput a1 i f = { f with edge := false } := if_pos h

theorem fdsOutput_of_not_writeEnable (a1 : Rat) (i : BitVec 6) {f : Fds} (h : f.wave.writeEnable = false) :
    fdsOutput a1 i f = { f with
      level := fdsLevel f, y1 := lowPass a1 f.y1 (fdsLevel f), filtered := lowPass a1 f.y1 (fdsLevel f)
      edge := decide (f.wave.phase.toNat / 0x10000 < i.toNat) } := by
  simp [fdsOutput, h, tableIndex_toNat]

/-- Settles O45: by the write enable; the level is the rule's quotient. (The name `fdsOutput` is the model's function.) -/
theorem fdsOutputFiltersTheLevel : Obligations.FdsOutput := by
  intro a1 old f
  exact ⟨fdsOutput_of_writeEnable a1 old,
    fun hplay => ⟨_, _, fdsLevel_eq f, rfl, fdsOutput_of_not_writeEnable a1 old hplay⟩⟩

end Sys2Proof.Machine

/-! ### The FDS part of a TICK (rules R450, R472, R473 and R1013) -/

namespace Sys2Proof.Machine

theorem fdsLatchStep_of_latch {f : Fds} (h : f.wave.envHaltLatch = true) :
    fdsLatchStep f = { f with volEnv := { f.volEnv with timer := 0 }, modEnv := { f.modEnv with timer := 0 } } :=
  if_pos h

theorem fdsLatchStep_of_clear {f : Fds} (h : f.wave.envHaltLatch = false) : fdsLatchStep f = f := by
  simp [fdsLatchStep, h]

@[simp] theorem fdsLatchStep_masterSpeed (f : Fds) : (fdsLatchStep f).masterSpeed = f.masterSpeed := by
  simp only [fdsLatchStep]; split <;> rfl

theorem fdsEnvelopeStep_of_held {f : Fds} (h : f.wave.halt = true ∨ f.wave.envHalt = true ∨ f.masterSpeed = 0) :
    fdsEnvelopeStep f = f := by
  have hheld : envelopesRun f = false := by
    obtain h | h | h := h <;> simp [envelopesRun, h]
  simp [fdsEnvelopeStep, hheld]

theorem fdsEnvelopeStep_of_running {f : Fds} (hwave : f.wave.halt = false) (henv : f.wave.envHalt = false)
    (hspeed : f.masterSpeed ≠ 0) :
    fdsEnvelopeStep f =
      { f with volEnv := envClock f.masterSpeed f.volEnv, modEnv := envClock f.masterSpeed f.modEnv } := by
  have hrun : envelopesRun f = true := by rw [envelopesRun, hwave, henv, decide_eq_true hspeed]; rfl
  rw [fdsEnvelopeStep, if_pos hrun]

theorem tickBegin_fds (s : State) : (tickBegin s).fds = fdsEnvelopeStep (fdsLatchStep s.fds) := by
  obtain ⟨-, -, -, -, -, -, hfds, -⟩ := tickBegin_keeps s
  exact hfds

/-- The first two steps of the FDS tick change the two envelopes only. -/
theorem fdsEnvelopeSteps_frame (f : Fds) : fdsEnvelopeStep (fdsLatchStep f) =
    { f with
      volEnv := (fdsEnvelopeStep (fdsLatchStep f)).volEnv, modEnv := (fdsEnvelopeStep (fdsLatchStep f)).modEnv } := by
  simp only [fdsEnvelopeStep, fdsLatchStep]
  split <;> split <;> rfl

/-- After a TICK of a device whose table holds commands the latch is clear, and the envelopes are those of its first two
steps. -/
theorem execTick_latch_and_envelopes {s : State} (h : CommandsLegal s.fds.mod) :
    ∃ t, execTick s = .next t ∧ t.fds.wave.envHaltLatch = false ∧
      t.fds.volEnv = (fdsEnvelopeStep (fdsLatchStep s.fds)).volEnv ∧
      t.fds.modEnv = (fdsEnvelopeStep (fdsLatchStep s.fds)).modEnv := by
  obtain ⟨p, q, hnext⟩ := execTick_legal h
  exact ⟨_, hnext, by simp, by simp [withPosPhase, tickBegin_fds], by simp [withPosPhase, tickBegin_fds]⟩

/-- Settles O47: by the latch and by whether the envelopes run. -/
theorem envelopeHaltLatchActsOnOneTick : Obligations.EnvelopeHaltLatchActsOnOneTick := by
  refine ⟨fun s hlegal => ?_, fdsEnvelopeSteps_frame⟩
  obtain ⟨t, hnext, hclear, hvol, hmod⟩ := execTick_latch_and_envelopes hlegal
  refine ⟨t, hnext, hclear, ?_⟩
  rw [hvol, hmod]
  refine ⟨fun hlatch hheld => ?_, fun hlatch hheld => ?_, fun hwave henv hspeed => ?_⟩
  · rw [fdsEnvelopeStep_of_held (by simpa using hheld), fdsLatchStep_of_latch hlatch]; exact ⟨rfl, rfl⟩
  · rw [fdsEnvelopeStep_of_held (by simpa using hheld), fdsLatchStep_of_clear hlatch]; exact ⟨rfl, rfl⟩
  · rw [fdsEnvelopeStep_of_running (by simpa using hwave) (by simpa using henv) (by simpa using hspeed)]
    refine ⟨fun hlatch => ?_, fun hlatch => ?_⟩
    · rw [fdsLatchStep_of_clear hlatch]; exact ⟨rfl, rfl⟩
    · rw [fdsLatchStep_of_latch hlatch]; exact ⟨rfl, rfl⟩

/-- A halted modulator, or one whose table is all no-ops, keeps its position. -/
theorem modClock_keeps_position {s : State} (h : s.fds.mod.halt = true ∨ ∀ i, modEntry s.fds.mod i = 0) :
    ∃ q, modClock s = .next (withPosPhase s.fds.mod.position q s) := by
  cases hhalt : s.fds.mod.halt with
  | true => exact ⟨s.fds.mod.phase, modClock_of_halt hhalt⟩
  | false =>
    refine ⟨BitVec.ofNat 22 (modNewPhase s.fds.mod), ?_⟩
    obtain hinside | hcross := (Nat.div_le_div_right (Nat.le_add_right _ _) :
      s.fds.mod.phase.toNat / 0x10000 ≤ modNewPhase s.fds.mod / 0x10000).eq_or_lt
    · exact modClock_of_not_crosses hhalt hinside.symm
    · have hnoop : modCommand s = 0 := (h.resolve_left (by simp [hhalt])) _
      exact modClock_of_crosses hhalt hcross (by rw [hnoop]; rfl)

/-- A held modulation envelope keeps its output through the first two steps of the FDS tick. -/
theorem fdsEnvelopeSteps_modEnv_output {f : Fds} (h : f.modEnv.disable = true) :
    (fdsEnvelopeStep (fdsLatchStep f)).modEnv.output = f.modEnv.output := by
  have hlatch : (fdsLatchStep f).modEnv.disable = true ∧ (fdsLatchStep f).modEnv.output = f.modEnv.output := by
    rw [fdsLatchStep]; split <;> exact ⟨h, rfl⟩
  obtain ⟨hdisable, houtput⟩ := hlatch
  rw [fdsEnvelopeStep]
  split
  · dsimp only; rw [envClock_of_disable _ hdisable, houtput]
  · exact houtput

/-- The wave clock of a wave that is not halted, with no modulation, adds the frequency. -/
theorem waveClock_unmodulated {f : Fds} (hrun : f.wave.halt = false)
    (hnone : modQ f.mod.position f.modEnv.output f.wave.frequency = 0) :
    (waveClock f).wave.phase.toNat = (f.wave.phase.toNat + f.wave.frequency.toNat) % 0x400000 ∧
      (waveClock f).wave.tickFreq = f.wave.frequency.toNat := by
  obtain ⟨-, hclock⟩ := waveClockAddsTheIncrement f
  obtain ⟨p, hp, heq⟩ := hclock hrun
  rw [hnone, Int.add_zero] at hp heq
  rw [heq]
  exact ⟨by dsimp only; omega, rfl⟩

/-- Settles O44: the modulator keeps its position, and a position or a held output of 0 leaves no modulation. -/
theorem unmodulatedTickAddsTheFrequency : Obligations.UnmodulatedTickAddsTheFrequency := by
  intro s hquiet hwave hzero
  obtain ⟨q, hclock⟩ := modClock_keeps_position (s := tickBegin s) (by simpa using hquiet)
  have hnone : modQ s.fds.mod.position (tickBegin s).fds.modEnv.output s.fds.wave.frequency = 0 := by
    obtain hposition | ⟨houtput, hdisable⟩ := hzero
    · rw [hposition, modQ_position_zero]
    · rw [tickBegin_fds, fdsEnvelopeSteps_modEnv_output hdisable, houtput, modQ_gain_zero]
  have hsame : (tickBegin s).fds.wave = s.fds.wave := by simp [tickBegin_fds]
  obtain ⟨hphase, hfreq⟩ := waveClock_unmodulated (f := (withPosPhase s.fds.mod.position q (tickBegin s)).fds)
    (by simpa [withPosPhase, hsame] using hwave) (by simpa [withPosPhase, hsame] using hnone)
  refine ⟨tickEnd (tableIndex s.fds.wave.phase) (withPosPhase s.fds.mod.position q (tickBegin s)), ?_, ?_, ?_, ?_⟩
  · simp [exec, execTick, hclock]
  · simp [withPosPhase]
  · simpa [withPosPhase, hsame] using hphase
  · simpa [withPosPhase, hsame] using hfreq

end Sys2Proof.Machine

/-! ### RECORD and the ring buffers (rules R502, R503, R507, R521, R523 and R530) -/

namespace Sys2Proof.Machine

/-- A TICK leaves the ring buffers, whether it ends normally or takes the fault. -/
theorem execTick_channels {s t : State} (h : execTick s = .next t) : t.channels = s.channels := by
  obtain ⟨-, hchannels, -⟩ := tickBegin_keeps s
  obtain ⟨p, q, ht⟩ | ⟨-, ht⟩ := execTick_cases s <;> obtain rfl := Host.Outcome.next.inj (ht.symm.trans h)
  · simp [withPosPhase, hchannels]
  · simp [hchannels]

/-- Settles O54: a TICK by its two ends; every other operation but RECORD replaces parts of the state that hold no
ring buffer. -/
theorem onlyRecordWritesTheRingBuffers : Obligations.OnlyRecordWritesTheRingBuffers := by
  intro i s t h hnot
  cases i
  case tick => exact execTick_channels h
  case recP1 | recP2 | recTri | recNoi | recDmc | recFds => simp at hnot
  all_goals obtain rfl := Host.Outcome.next.inj h; rfl

/-- The 2A03 channels have no edge. -/
theorem edgeOf_of_ne_fds {ch : Channel} (s : State) (hch : ch ≠ .fds) : edgeOf ch s = false := by
  cases ch
  case fds => contradiction
  all_goals rfl

/-! RECORD with the debug filter off: the level itself is pushed. -/

theorem recordChannel_off (ch : Channel) {s : State} (hoff : s.params.debugHighpass = false) :
    recordChannel ch s = pushSample ch (level ch s) s := by
  rw [recordChannel, highPassed_off ch _ s hoff]

theorem recordFds_off {s : State} (hoff : s.params.debugHighpass = false) :
    recordFds s = pushSample .fds (fdsStage2 s).fds.y2 (fdsStage2 s) := by
  rw [recordFds, highPassed_off .fds _ (fdsStage2 s) hoff]

/-- Settles O49: each 2A03 channel pushes its level, without an edge. -/
theorem recordOfAnApuChannel : Obligations.RecordOfAnApuChannel := by
  intro s hoff rec_
  have hrec (i : Instr) (ch : Channel) (hexec : exec i s = .next (recordChannel ch s)) (hch : ch ≠ .fds) :
      rec_ i ch (level ch s) :=
    ⟨(s.channels.get ch).push (Config.sampleQuantize (level ch s)) false,
      by rw [hexec, recordChannel_off ch hoff, pushSample, edgeOf_of_ne_fds s hch], rfl, rfl, rfl, rfl⟩
  exact ⟨hrec .recP1 .p1 rfl nofun, hrec .recP2 .p2 rfl nofun, hrec .recTri .tri rfl nofun,
    hrec .recNoi .noi rfl nofun, hrec .recDmc .dmc rfl nofun⟩

/-- Settles O50: the state after stage 2 of the filter pushes that stage's output. -/
theorem recordOfTheFdsChannel : Obligations.RecordOfTheFdsChannel := by
  intro s hoff
  rw [exec, execRecFds, recordFds_off hoff]
  exact ⟨_, _, rfl, rfl, rfl, rfl, rfl, rfl⟩

/-! RECORD with the debug filter on: `recordChannel_eq` and `recordFds_eq`, with the one draw. -/

/-- Settles O51: a 2A03 channel leaves the filter stage and pushes without an edge; the FDS channel runs the stage and
pushes its edge. -/
theorem recordThroughTheDebugFilter : Obligations.RecordThroughTheDebugFilter := by
  intro s hon rec_
  have hrec (i : Instr) (ch : Channel) (hexec : exec i s = .next (recordChannel ch s)) (hch : ch ≠ .fds) :
      rec_ i ch false := by
    obtain ⟨v, hv⟩ := recordChannel_eq ch s
    rw [if_pos hon, edgeOf_of_ne_fds s hch] at hv
    exact ⟨s.fds.y2, v, by rw [hexec, hv], (if_neg hch).symm⟩
  have hfds : rec_ .recFds .fds s.fds.edge := by
    obtain ⟨v, hv⟩ := recordFds_eq s
    rw [if_pos hon] at hv
    exact ⟨_, v, congrArg Host.Outcome.next hv, rfl⟩
  exact ⟨hrec .recP1 .p1 rfl nofun, hrec .recP2 .p2 rfl nofun, hrec .recTri .tri rfl nofun,
    hrec .recNoi .noi rfl nofun, hrec .recDmc .dmc rfl nofun, hfds⟩

end Sys2Proof.Machine

/-! ### Pulse register writes (rules R551 to R554): one lemma per register, over a channel, for both channels -/

namespace Sys2Proof.Machine

theorem pulseControl_fields (d : Byte) (p : Pulse) :
    (pulseControl d p).duty.toNat = field d 7 6 ∧ (pulseControl d p).halt = flag d 5 ∧
    (pulseControl d p).constVol = flag d 4 ∧ (pulseControl d p).vol.toNat = field d 3 0 :=
  ⟨extract_eq_field d 7 6, bit_eq_flag d 5, bit_eq_flag d 4, extract_eq_field d 3 0⟩

theorem pulseSweep_fields (d : Byte) (p : Pulse) :
    (pulseSweep d p).sweepEnable = flag d 7 ∧ (pulseSweep d p).sweepPeriod.toNat = field d 6 4 ∧
    (pulseSweep d p).sweepNegate = flag d 3 ∧ (pulseSweep d p).sweepShift.toNat = field d 2 0 :=
  ⟨bit_eq_flag d 7, extract_eq_field d 6 4, bit_eq_flag d 3, extract_eq_field d 2 0⟩

theorem pulseLengthHigh_length (d : Byte) (p : Pulse) :
    (pulseLengthHigh d p).length = if p.enabled then lengthTable.getD (field d 7 3) 0 else p.length := by
  rw [pulseLengthHigh, lengthOf_eq]

/-- Settles O13: both channels are written by `pulseControl`, whose fields are those of the data byte. -/
theorem pulseControlWrite : Obligations.PulseControlWrite := by
  intro d s
  obtain ⟨hduty₁, hhalt₁, hconst₁, hvol₁⟩ := pulseControl_fields d s.apu.pulse1
  obtain ⟨hduty₂, hhalt₂, hconst₂, hvol₂⟩ := pulseControl_fields d s.apu.pulse2
  exact ⟨⟨_, rfl, hduty₁, hhalt₁, hconst₁, hvol₁, rfl⟩, ⟨_, rfl, hduty₂, hhalt₂, hconst₂, hvol₂, rfl⟩⟩

/-- Settles O14: both channels are written by `pulseSweep`, whose fields are those of the data byte. -/
theorem pulseSweepWrite : Obligations.PulseSweepWrite := by
  intro d s
  obtain ⟨henable₁, hperiod₁, hnegate₁, hshift₁⟩ := pulseSweep_fields d s.apu.pulse1
  obtain ⟨henable₂, hperiod₂, hnegate₂, hshift₂⟩ := pulseSweep_fields d s.apu.pulse2
  exact ⟨⟨_, rfl, henable₁, hperiod₁, hnegate₁, hshift₁, rfl⟩, ⟨_, rfl, henable₂, hperiod₂, hnegate₂, hshift₂, rfl⟩⟩

/-- Settles O15: both channels are written by `pulsePeriodLow`, which replaces the low byte of the period. -/
theorem pulsePeriodLowWrite : Obligations.PulsePeriodLowWrite := fun d _ =>
  ⟨⟨_, rfl, withLow11_toNat _ d, rfl⟩, ⟨_, rfl, withLow11_toNat _ d, rfl⟩⟩

/-- Settles O16: both channels are written by `pulseLengthHigh`, which replaces the high bits of the period and, if the
channel is enabled, the length. -/
theorem pulseLengthHighWrite : Obligations.PulseLengthHighWrite := fun d _ =>
  ⟨⟨_, rfl, withHigh11_toNat _ d, pulseLengthHigh_length d _, rfl⟩,
    ⟨_, rfl, withHigh11_toNat _ d, pulseLengthHigh_length d _, rfl⟩⟩

end Sys2Proof.Machine

/-! ### The pulse timer and the envelope divider (rules R556 and R557) -/

namespace Sys2Proof.Machine

/-! A timer or divider counts down by one per clock while it is not 0. `x n` is the unit with the count at `n`. -/

theorem iterate_countdown {α : Type} {f : α → α} {x : Nat → α} {bound n k : Nat}
    (hstep : ∀ m, m + 1 < bound → f (x (m + 1)) = x m) (hn : n < bound) (hk : k ≤ n) : f^[k] (x n) = x (n - k) := by
  induction k with
  | zero => rfl
  | succ k ih =>
    have hcount : n - k = n - (k + 1) + 1 := by omega
    rw [Function.iterate_succ_apply', ih (by omega), hcount]
    exact hstep _ (by omega)

theorem ofNat_succ_ne_zero {w m : Nat} (h : m + 1 < 2 ^ w) : BitVec.ofNat w (m + 1) ≠ 0 := by
  intro hzero
  have hmod : (m + 1) % 2 ^ w = 0 := by simpa using congrArg BitVec.toNat hzero
  rw [Nat.mod_eq_of_lt h] at hmod
  omega

theorem ofNat_succ_sub_one (w m : Nat) : BitVec.ofNat w (m + 1) - 1 = BitVec.ofNat w m := by
  rw [BitVec.ofNat_add]; exact BitVec.add_sub_cancel _ _

theorem pulseTimer_of_zero {p : Pulse} (h : p.timer = 0) :
    pulseTimer p = { p with timer := p.period, seq := p.seq - 1 } := if_pos h

theorem pulseTimer_of_ne_zero {p : Pulse} (h : p.timer ≠ 0) : pulseTimer p = { p with timer := p.timer - 1 } :=
  if_neg h

theorem pulseTimer_iterate_countdown (p : Pulse) {n k : Nat} (hn : n < 2 ^ 11) (hk : k ≤ n) :
    pulseTimer^[k] { p with timer := BitVec.ofNat 11 n } = { p with timer := BitVec.ofNat 11 (n - k) } :=
  iterate_countdown (x := fun m => { p with timer := BitVec.ofNat 11 m })
    (fun m hm => by rw [pulseTimer_of_ne_zero (ofNat_succ_ne_zero hm), ofNat_succ_sub_one]) hn hk

/-- Settles O17: the first cycle reloads the timer with the period, from which the others count down. -/
theorem pulseSequencerPeriod : Obligations.PulseSequencerPeriod := by
  refine ⟨fun p k htimer hk => ?_, fun p => pulseTimer_of_ne_zero⟩
  have hcount := pulseTimer_iterate_countdown { p with seq := p.seq - 1 } p.period.isLt hk
  rwa [BitVec.ofNat_toNat, BitVec.setWidth_eq, ← pulseTimer_of_zero htimer, ← Function.iterate_succ_apply] at hcount

/-! The envelope: its start, its divider, and what the end of a divider period does to the decay level. -/

/-- The decay level at the end of a divider period (rule R557). -/
def envDecay (halt : Bool) (c : BitVec 4) : BitVec 4 := if c = 0 then (if halt then 15 else 0) else c - 1

theorem envDecay_once_toNat (c : BitVec 4) : (envDecay false c).toNat = c.toNat - 1 := by
  by_cases hzero : c = 0
  · subst hzero; rfl
  · rw [envDecay, if_neg hzero]; bv_omega

theorem envDecay_loop_toNat (c : BitVec 4) : (envDecay true c).toNat = (c.toNat + 15) % 16 := by
  by_cases hzero : c = 0
  · subst hzero; rfl
  · rw [envDecay, if_neg hzero]; bv_omega

theorem envDecay_once_iterate (k : Nat) : ((envDecay false)^[k] 15).toNat = 15 - k := by
  induction k with
  | zero => rfl
  | succ k ih => rw [Function.iterate_succ_apply', envDecay_once_toNat, ih]; omega

theorem envDecay_loop_iterate (k : Nat) : ((envDecay true)^[k] 15).toNat = 15 - k % 16 := by
  induction k with
  | zero => rfl
  | succ k ih => rw [Function.iterate_succ_apply', envDecay_loop_toNat, ih]; omega

theorem envQuarter_of_start (vol : BitVec 4) (halt : Bool) {e : Envelope} (h : e.start = true) :
    envQuarter vol halt e = { start := false, div := vol, decay := 15 } := if_pos h

theorem envQuarter_of_div_zero (vol : BitVec 4) (halt : Bool) (c : BitVec 4) :
    envQuarter vol halt { start := false, div := 0, decay := c } =
      { start := false, div := vol, decay := envDecay halt c } := rfl

theorem envQuarter_of_div_ne_zero (vol : BitVec 4) (halt : Bool) {v : BitVec 4} (c : BitVec 4) (h : v ≠ 0) :
    envQuarter vol halt { start := false, div := v, decay := c } = { start := false, div := v - 1, decay := c } :=
  if_neg h

theorem envQuarter_iterate_countdown (vol : BitVec 4) (halt : Bool) (v c : BitVec 4) :
    (envQuarter vol halt)^[v.toNat] { start := false, div := v, decay := c } =
      { start := false, div := 0, decay := c } := by
  have hcount := iterate_countdown (f := envQuarter vol halt)
    (x := fun m => { start := false, div := BitVec.ofNat 4 m, decay := c })
    (fun m hm => by rw [envQuarter_of_div_ne_zero _ _ _ (ofNat_succ_ne_zero hm), ofNat_succ_sub_one])
    v.isLt (Nat.le_refl _)
  rwa [BitVec.ofNat_toNat, BitVec.setWidth_eq, Nat.sub_self] at hcount

/-- One divider period is `vol + 1` quarter frames, and the decay level takes one step in it. -/
theorem envQuarter_iterate_period (vol : BitVec 4) (halt : Bool) (c : BitVec 4) :
    (envQuarter vol halt)^[vol.toNat + 1] { start := false, div := vol, decay := c } =
      { start := false, div := vol, decay := envDecay halt c } := by
  rw [Function.iterate_succ_apply', envQuarter_iterate_countdown, envQuarter_of_div_zero]

theorem envQuarter_iterate_periods (vol : BitVec 4) (halt : Bool) (k : Nat) (c : BitVec 4) :
    (envQuarter vol halt)^[k * (vol.toNat + 1)] { start := false, div := vol, decay := c } =
      { start := false, div := vol, decay := (envDecay halt)^[k] c } := by
  rw [Nat.mul_comm, Function.iterate_mul]
  have hperiod : Function.Semiconj (fun v => ({ start := false, div := vol, decay := v } : Envelope))
      (envDecay halt) ((envQuarter vol halt)^[vol.toNat + 1]) :=
    fun v => (envQuarter_iterate_period vol halt v).symm
  exact (hperiod.iterate_right k c).symm

theorem envQuarter_iterate_from_start (vol : BitVec 4) (halt : Bool) {e : Envelope} (h : e.start = true) (k : Nat) :
    (envQuarter vol halt)^[1 + k * (vol.toNat + 1)] e =
      { start := false, div := vol, decay := (envDecay halt)^[k] 15 } := by
  rw [Nat.add_comm, Function.iterate_succ_apply, envQuarter_of_start vol halt h, envQuarter_iterate_periods]

/-- Settles O18: the start loads 15, and each divider period takes one step of the decay level. -/
theorem envelopeDecaysOnePerDividerPeriod : Obligations.EnvelopeDecaysOnePerDividerPeriod := by
  intro vol e k hstart
  rw [envQuarter_iterate_from_start vol false hstart, envQuarter_iterate_from_start vol true hstart]
  exact ⟨envDecay_once_iterate k, envDecay_loop_iterate k⟩

end Sys2Proof.Machine

/-! ### The sweep (rules R558, R559 and R561) -/

namespace Sys2Proof.Machine

/-- `period >> shift`, the change of rule R558. -/
def sweepChange (p : Pulse) : Nat := p.period.toNat / 2 ^ p.sweepShift.toNat

theorem sweepChange_le (p : Pulse) : sweepChange p ≤ p.period.toNat := Nat.div_le_self _ _

theorem sweepChange_le_half {p : Pulse} (hshift : p.sweepShift ≠ 0) : sweepChange p ≤ p.period.toNat / 2 := by
  have hpow : 2 ^ 1 ≤ 2 ^ p.sweepShift.toNat := Nat.pow_le_pow_right (by decide) (by bv_omega)
  exact Nat.div_le_div_left hpow (by decide)

theorem sweepTarget_eq (first : Bool) (p : Pulse) :
    sweepTarget first p =
      if p.sweepNegate then (p.period.toNat : Int) - sweepChange p - (if first then 1 else 0)
      else (p.period.toNat : Int) + sweepChange p := by
  simp only [sweepTarget, sweepChange, Nat.shiftRight_eq_div_pow]

theorem sweepTarget_eq_neg_one_iff (first : Bool) (p : Pulse) :
    sweepTarget first p = -1 ↔ first = true ∧ p.sweepNegate = true ∧ sweepChange p = p.period.toNat := by
  have hchange := sweepChange_le p
  rw [sweepTarget_eq]
  cases p.sweepNegate
  case false =>
    simp only [Bool.false_eq_true, if_false, false_and, and_false, iff_false]
    omega
  case true =>
    cases first <;> simp only [Bool.false_eq_true, if_true, if_false, true_and, false_and, iff_false] <;> omega

theorem sweepTarget_le_of_negate (first : Bool) {p : Pulse} (h : p.sweepNegate = true) :
    sweepTarget first p ≤ p.period.toNat := by
  rw [sweepTarget_eq, if_pos h]
  split <;> omega

theorem sweepTarget_nonneg_of_shift (first : Bool) {p : Pulse} (hshift : p.sweepShift ≠ 0)
    (hperiod : 8 ≤ p.period.toNat) : 0 ≤ sweepTarget first p := by
  have hchange := sweepChange_le_half hshift
  rw [sweepTarget_eq]
  split
  · split <;> omega
  · omega

theorem sweepMuted_iff (first : Bool) (p : Pulse) :
    sweepMuted first p = true ↔ p.period.toNat < 8 ∨ 0x7FF < sweepTarget first p := by
  simp [sweepMuted]

/-- Settles O19: by the negate flag; a change is at most the period it comes from, and a period is below `0x800`. -/
theorem sweepTargetAndMuting : Obligations.SweepTargetAndMuting := by
  intro first p
  refine ⟨sweepTarget_eq first p, sweepTarget_eq_neg_one_iff first p, fun hnegate => ?_, sweepMuted_iff first p⟩
  have hperiod := p.period.isLt
  have htarget := sweepTarget_le_of_negate first hnegate
  omega

theorem sweepFires_iff (first : Bool) (p : Pulse) :
    sweepFires first p = true ↔
      p.sweepDiv = 0 ∧ p.sweepEnable = true ∧ p.sweepShift ≠ 0 ∧ sweepMuted first p = false := by
  simp [sweepFires, and_assoc]

/-- A sweep that fires has a nonzero shift and is not muted, so its target is a period. -/
theorem sweepTarget_range_of_fires {first : Bool} {p : Pulse} (h : sweepFires first p = true) :
    0 ≤ sweepTarget first p ∧ sweepTarget first p ≤ 0x7FF := by
  obtain ⟨-, -, hshift, hmuted⟩ := (sweepFires_iff first p).mp h
  have hbounds := mt (sweepMuted_iff first p).mpr (by simp [hmuted])
  exact ⟨sweepTarget_nonneg_of_shift first hshift (by omega), by omega⟩

theorem sweepHalf_period_of_fires {first : Bool} {p : Pulse} (h : sweepFires first p = true) :
    ((sweepHalf first p).period.toNat : Int) = sweepTarget first p := by
  obtain ⟨hlow, hhigh⟩ := sweepTarget_range_of_fires h
  simp only [sweepHalf, if_pos h, BitVec.toNat_ofInt]
  omega

theorem sweepHalf_period_of_not_fires {first : Bool} {p : Pulse} (h : ¬sweepFires first p = true) :
    (sweepHalf first p).period = p.period := if_neg h

theorem sweepHalf_divider_of_reload (first : Bool) {p : Pulse} (h : p.sweepDiv = 0 ∨ p.sweepReload = true) :
    (sweepHalf first p).sweepDiv = p.sweepPeriod ∧ (sweepHalf first p).sweepReload = false := ⟨if_pos h, if_pos h⟩

theorem sweepHalf_divider_of_count (first : Bool) {p : Pulse} (h : ¬(p.sweepDiv = 0 ∨ p.sweepReload = true)) :
    (sweepHalf first p).sweepDiv.toNat + 1 = p.sweepDiv.toNat ∧ (sweepHalf first p).sweepReload = false := by
  obtain ⟨hdiv, hreload⟩ := not_or.mp h
  simp only [sweepHalf, if_neg h]
  exact ⟨by bv_omega, Bool.eq_false_of_not_eq_true hreload⟩

/-- Settles O20: the period by whether the sweep fires, the divider by whether it is reloaded. -/
theorem sweepHalfFrame : Obligations.SweepHalfFrame := by
  intro first p
  rw [← sweepFires_iff]
  exact ⟨rfl, sweepHalf_period_of_fires, sweepHalf_period_of_not_fires, sweepHalf_divider_of_reload first,
    sweepHalf_divider_of_count first⟩

end Sys2Proof.Machine

/-! ### The channels' outputs and the 2A03 mix (rules R555, R557, R560, R604, R610, R662, R507, R509 and R780) -/

namespace Sys2Proof.Machine

theorem lengthActive_eq_false_iff (len : BitVec 8) : lengthActive len = false ↔ len = 0 := by simp [lengthActive]

/-- The duty table of rule R555, with the spec's numbers 0 and 1. -/
theorem dutyBit_eq_false_iff (duty : BitVec 2) (seq : BitVec 3) :
    dutyBit duty seq = false ↔
      (([[0, 1, 0, 0, 0, 0, 0, 0], [0, 1, 1, 0, 0, 0, 0, 0], [0, 1, 1, 1, 1, 0, 0, 0],
        [1, 0, 0, 1, 1, 1, 1, 1]] : List (List Nat)).getD duty.toNat []).getD seq.toNat 0 = 0 := by
  revert duty seq; decide

theorem pulseOut_eq (first : Bool) (p : Pulse) :
    pulseOut first p =
      if dutyBit p.duty p.seq = false ∨ p.length = 0 ∨ sweepMuted first p = true then 0
      else envVolume p.constVol p.vol p.env := by
  simp only [pulseOut, ← lengthActive_eq_false_iff, Bool.or_eq_true, Bool.not_eq_true', or_assoc]

theorem noiseOut_eq (n : Noise) :
    noiseOut n = if n.lfsr.toNat % 2 = 1 ∨ n.length = 0 then 0 else envVolume n.constVol n.vol n.env := by
  simp only [noiseOut, ← lengthActive_eq_false_iff, Bool.or_eq_true, Bool.not_eq_true', BitVec.getLsbD, Nat.testBit_zero,
    decide_eq_true_eq]

theorem envVolume_le (constVol : Bool) (vol : BitVec 4) (e : Envelope) : envVolume constVol vol e ≤ 15 := by
  unfold envVolume
  split
  · exact Nat.le_of_lt_succ vol.isLt
  · exact Nat.le_of_lt_succ e.decay.isLt

theorem pulseOut_le (first : Bool) (p : Pulse) : pulseOut first p ≤ 15 := by
  rw [pulseOut_eq]
  split
  · exact Nat.zero_le 15
  · exact envVolume_le _ _ _

theorem noiseOut_le (n : Noise) : noiseOut n ≤ 15 := by
  rw [noiseOut_eq]
  split
  · exact Nat.zero_le 15
  · exact envVolume_le _ _ _

theorem triOut_le (t : Triangle) : triOut t ≤ 15 := by
  have hseq := t.seq.isLt
  unfold triOut triSeq
  split <;> omega

/-- A muted channel gives 0, and another its level. -/
theorem audible_bounds {ch : Channel} {s : State} {n m : Nat} (hlevel : level ch s = n) (hn : n ≤ m) :
    0 ≤ audible ch s ∧ audible ch s ≤ m := by
  unfold audible
  split
  · exact ⟨le_rfl, Nat.cast_nonneg m⟩
  · rw [hlevel]; exact ⟨Nat.cast_nonneg n, Nat.cast_le.mpr hn⟩

/-! Both parts of the mix lie on one curve, which rises from 0. -/

/-- The curve of rule R780: `c / (k / x + 100)`, and 0 at 0. -/
def mixCurve (c k x : Rat) : Rat := if x = 0 then 0 else c / (k / x + 100)

theorem mixPulse_eq_mixCurve : mixPulse = mixCurve (9588 / 100) 8128 := rfl

theorem mixTnd_eq_mixCurve : mixTnd = mixCurve (15979 / 100) 1 := rfl

theorem mixCurve_nonneg {c k x : Rat} (hc : 0 ≤ c) (hk : 0 ≤ k) (hx : 0 ≤ x) : 0 ≤ mixCurve c k x := by
  unfold mixCurve
  split
  · exact le_rfl
  · positivity

theorem mixCurve_mono {c k x y : Rat} (hc : 0 ≤ c) (hk : 0 ≤ k) (hx : 0 ≤ x) (hxy : x ≤ y) :
    mixCurve c k x ≤ mixCurve c k y := by
  obtain rfl | hpos := hx.eq_or_lt
  · rw [mixCurve, if_pos rfl]
    exact mixCurve_nonneg hc hk hxy
  · have hypos : 0 < y := hpos.trans_le hxy
    rw [mixCurve, mixCurve, if_neg hpos.ne', if_neg hypos.ne']
    gcongr

/-- The mix with every 2A03 channel at its highest level, the largest there is. -/
theorem mix_at_highest_levels_lt_one : mixPulse (15 + 15) + mixTnd (mixSum 15 15 127) < 1 := by
  norm_num [mixPulse, mixTnd, mixSum]

theorem mix2A03_range (s : State) : 0 ≤ mix2A03 s ∧ mix2A03 s < 1 := by
  obtain ⟨hp1, hp1'⟩ := audible_bounds (ch := .p1) (s := s) rfl (pulseOut_le true s.apu.pulse1)
  obtain ⟨hp2, hp2'⟩ := audible_bounds (ch := .p2) (s := s) rfl (pulseOut_le false s.apu.pulse2)
  obtain ⟨ht, ht'⟩ := audible_bounds (ch := .tri) (s := s) rfl (triOut_le s.apu.tri)
  obtain ⟨hn, hn'⟩ := audible_bounds (ch := .noi) (s := s) rfl (noiseOut_le s.apu.noise)
  obtain ⟨hd, hd'⟩ := audible_bounds (ch := .dmc) (s := s) rfl (Nat.le_of_lt_succ s.apu.dmc.level.isLt)
  have hpulse : 0 ≤ audible .p1 s + audible .p2 s := add_nonneg hp1 hp2
  have hsum : 0 ≤ mixSum (audible .tri s) (audible .noi s) (audible .dmc s) := by unfold mixSum; positivity
  have hsum' : mixSum (audible .tri s) (audible .noi s) (audible .dmc s) ≤ mixSum 15 15 127 := by
    unfold mixSum; gcongr <;> assumption
  refine ⟨add_nonneg (mixCurve_nonneg (by norm_num) (by norm_num) hpulse)
    (mixCurve_nonneg (by norm_num) (by norm_num) hsum), ?_⟩
  calc mix2A03 s ≤ mixPulse (15 + 15) + mixTnd (mixSum 15 15 127) :=
        add_le_add (mixCurve_mono (by norm_num) (by norm_num) hpulse (add_le_add hp1' hp2'))
          (mixCurve_mono (by norm_num) (by norm_num) hsum hsum')
    _ < 1 := mix_at_highest_levels_lt_one

/-- Settles O58: the outputs and the mix by their equations; the mix is at most that of the highest levels, as both its
parts rise with the levels. -/
theorem outputsAndMixLieInTheirRanges : Obligations.OutputsAndMixLieInTheirRanges := by
  refine ⟨fun first p t n => ⟨?_, rfl, noiseOut_eq n, pulseOut_le first p, triOut_le t, noiseOut_le n⟩,
    fun s => ⟨rfl, rfl, rfl, rfl, rfl, rfl, ?_, mix2A03_range s⟩⟩
  · simp only [← dutyBit_eq_false_iff]
    exact pulseOut_eq first p
  · norm_num [mix2A03, mixPulse, mixTnd, mixSum, audible]

end Sys2Proof.Machine

/-! ### Triangle register writes (rules R601 to R603) -/

namespace Sys2Proof.Machine

/-- Settles O21: the control flag and the reload value are fields of the data byte, the period is replaced by its low
and high bytes, and the length is loaded from the table if the channel is enabled. -/
theorem triangleWrites : Obligations.TriangleWrites := by
  intro d s
  have hlength : (triLengthHigh d s.apu.tri).length =
      if s.apu.tri.enabled then lengthTable.getD (field d 7 3) 0 else s.apu.tri.length := by
    rw [triLengthHigh, lengthOf_eq]
  exact ⟨⟨_, rfl, bit_eq_flag d 7, extract_eq_field d 6 0, rfl⟩, ⟨_, rfl, withLow11_toNat _ d, rfl⟩,
    ⟨_, rfl, withHigh11_toNat _ d, hlength, rfl⟩⟩

end Sys2Proof.Machine

/-! ### The triangle's timer and linear counter (rules R605 and R606) -/

namespace Sys2Proof.Machine

theorem triRuns_iff (t : Triangle) : triRuns t = true ↔ t.length ≠ 0 ∧ t.linear ≠ 0 := by
  simp [triRuns, lengthActive]

/-- The triangle's position after its timer has run out: the next one if both counters are nonzero (rule R606). -/
def triNextSeq (t : Triangle) : BitVec 5 := if t.length ≠ 0 ∧ t.linear ≠ 0 then t.seq + 1 else t.seq

theorem triTimer_of_zero {t : Triangle} (h : t.timer = 0) :
    triTimer t = { t with timer := t.period, seq := triNextSeq t } := by
  rw [triTimer, if_pos h, triNextSeq]
  simp only [triRuns_iff]

theorem triTimer_of_ne_zero {t : Triangle} (h : t.timer ≠ 0) : triTimer t = { t with timer := t.timer - 1 } :=
  if_neg h

theorem triTimer_iterate_countdown (t : Triangle) {n k : Nat} (hn : n < 2 ^ 11) (hk : k ≤ n) :
    triTimer^[k] { t with timer := BitVec.ofNat 11 n } = { t with timer := BitVec.ofNat 11 (n - k) } :=
  iterate_countdown (x := fun m => { t with timer := BitVec.ofNat 11 m })
    (fun m hm => by rw [triTimer_of_ne_zero (ofNat_succ_ne_zero hm), ofNat_succ_sub_one]) hn hk

theorem triTimer_iterate_of_zero {t : Triangle} (htimer : t.timer = 0) {k : Nat} (hk : k ≤ t.period.toNat) :
    triTimer^[k + 1] t = { t with timer := BitVec.ofNat 11 (t.period.toNat - k), seq := triNextSeq t } := by
  have hcount := triTimer_iterate_countdown { t with seq := triNextSeq t } t.period.isLt hk
  rwa [BitVec.ofNat_toNat, BitVec.setWidth_eq, ← triTimer_of_zero htimer, ← Function.iterate_succ_apply] at hcount

/-! The linear counter: the load, and the count that saturates at 0 once the reload flag is clear. -/

theorem linearQuarter_of_reload {t : Triangle} (h : t.linearReload = true) :
    linearQuarter t = { t with linear := t.linearReloadValue, linearReload := t.control } := by
  simp [linearQuarter, h]

theorem linearQuarter_of_not_reload {t : Triangle} (h : t.linearReload = false) :
    (linearQuarter t).linear.toNat = t.linear.toNat - 1 ∧ (linearQuarter t).linearReload = false := by
  by_cases hzero : t.linear = 0
  · simp [linearQuarter, h, hzero]
  · simp only [linearQuarter, h, hzero, Bool.false_eq_true, if_false, Bool.false_and, and_true]
    bv_omega

theorem linearQuarter_iterate_countdown {t : Triangle} (h : t.linearReload = false) (k : Nat) :
    (linearQuarter^[k] t).linear.toNat = t.linear.toNat - k := by
  induction k generalizing t with
  | zero => rfl
  | succ k ih =>
    obtain ⟨hlinear, hreload⟩ := linearQuarter_of_not_reload h
    rw [Function.iterate_succ_apply, ih hreload, hlinear]
    omega

/-- With `control` set the reload flag stays set, so the loaded unit is a fixed point of the quarter frame. -/
theorem linearQuarter_iterate_of_control {t : Triangle} (hreload : t.linearReload = true) (hcontrol : t.control = true)
    (k : Nat) : linearQuarter^[k + 1] t = { t with linear := t.linearReloadValue, linearReload := true } := by
  rw [Function.iterate_succ_apply, linearQuarter_of_reload hreload, hcontrol]
  exact Function.iterate_fixed (linearQuarter_of_reload rfl) k

/-- Settles O22: the timer's cycle reloads and counts down from the period; the linear counter is loaded, then counts
down, or is loaded again while `control` holds the reload flag. -/
theorem triangleSequencerAndLinearCounter : Obligations.TriangleSequencerAndLinearCounter := by
  refine ⟨fun t k htimer hk => triTimer_iterate_of_zero htimer hk, fun t => triTimer_of_ne_zero,
    fun t k hreload hcontrol => ?_, fun t k hreload hcontrol => ?_⟩
  · rw [Function.iterate_succ_apply, linearQuarter_of_reload hreload]
    exact linearQuarter_iterate_countdown hcontrol k
  · rw [linearQuarter_iterate_of_control hreload hcontrol]

end Sys2Proof.Machine

/-! ### Noise register writes (rules R651 to R653) -/

namespace Sys2Proof.Machine

theorem noiseControl_fields (d : Byte) (n : Noise) :
    (noiseControl d n).halt = flag d 5 ∧ (noiseControl d n).constVol = flag d 4 ∧
    (noiseControl d n).vol.toNat = field d 3 0 :=
  ⟨bit_eq_flag d 5, bit_eq_flag d 4, extract_eq_field d 3 0⟩

theorem noiseMode_fields (d : Byte) (n : Noise) :
    (noiseMode d n).mode = flag d 7 ∧ (noiseMode d n).periodIndex.toNat = field d 3 0 :=
  ⟨bit_eq_flag d 7, extract_eq_field d 3 0⟩

theorem noiseLength_length (d : Byte) (n : Noise) :
    (noiseLength d n).length = if n.enabled then lengthTable.getD (field d 7 3) 0 else n.length := by
  rw [noiseLength, lengthOf_eq]

/-- Settles O23: the control, mode and period fields are those of the data byte, and the length is loaded from the table
if the channel is enabled. -/
theorem noiseWrites : Obligations.NoiseWrites := by
  intro d s
  obtain ⟨hhalt, hconst, hvol⟩ := noiseControl_fields d s.apu.noise
  obtain ⟨hmode, hperiod⟩ := noiseMode_fields d s.apu.noise
  exact ⟨⟨_, rfl, hhalt, hconst, hvol, rfl⟩, ⟨_, rfl, hmode, hperiod, rfl⟩,
    ⟨_, rfl, noiseLength_length d s.apu.noise, rfl⟩⟩

end Sys2Proof.Machine

/-! ### The noise timer and the LFSR (rules R655 to R657) -/

namespace Sys2Proof.Machine

theorem noisePeriod_lt (index : BitVec 4) : noisePeriod index < 2 ^ 12 := by
  revert index; decide

theorem noiseTimer_of_zero {n : Noise} (h : n.timer = 0) :
    noiseTimer n =
      { n with timer := BitVec.ofNat 12 (noisePeriod n.periodIndex - 1), lfsr := lfsrStep n.mode n.lfsr } :=
  if_pos h

theorem noiseTimer_of_ne_zero {n : Noise} (h : n.timer ≠ 0) : noiseTimer n = { n with timer := n.timer - 1 } :=
  if_neg h

theorem noiseTimer_iterate_countdown (n : Noise) {m k : Nat} (hm : m < 2 ^ 12) (hk : k ≤ m) :
    noiseTimer^[k] { n with timer := BitVec.ofNat 12 m } = { n with timer := BitVec.ofNat 12 (m - k) } :=
  iterate_countdown (x := fun m => { n with timer := BitVec.ofNat 12 m })
    (fun m hm => by rw [noiseTimer_of_ne_zero (ofNat_succ_ne_zero hm), ofNat_succ_sub_one]) hm hk

/-- One period of the timer: the TICK that finds it at 0 steps the LFSR, and the others only count down. -/
theorem noiseTimer_iterate_of_zero {n : Noise} (htimer : n.timer = 0) {k : Nat} (hk : k < noisePeriod n.periodIndex) :
    noiseTimer^[k + 1] n =
      { n with timer := BitVec.ofNat 12 (noisePeriod n.periodIndex - 1 - k), lfsr := lfsrStep n.mode n.lfsr } := by
  rw [Function.iterate_succ_apply, noiseTimer_of_zero htimer]
  exact noiseTimer_iterate_countdown { n with lfsr := lfsrStep n.mode n.lfsr }
    ((Nat.sub_le _ 1).trans_lt (noisePeriod_lt n.periodIndex)) (Nat.le_sub_one_of_lt hk)

/-- The exclusive or of two bits is the parity of their sum. -/
theorem ofBool_xor_getLsbD_toNat {w : Nat} (r : BitVec w) (i j : Nat) :
    (BitVec.ofBool (r.getLsbD i ^^ r.getLsbD j)).toNat = (r.toNat / 2 ^ i + r.toNat / 2 ^ j) % 2 := by
  rw [BitVec.getLsbD, BitVec.getLsbD, Nat.testBit_eq_decide_div_mod_eq, Nat.testBit_eq_decide_div_mod_eq, Nat.add_mod]
  obtain hi | hi := Nat.mod_two_eq_zero_or_one (r.toNat / 2 ^ i) <;>
    obtain hj | hj := Nat.mod_two_eq_zero_or_one (r.toNat / 2 ^ j) <;> rw [hi, hj] <;> rfl

theorem lfsrStep_eq (mode : Bool) (r : BitVec 15) :
    lfsrStep mode r =
      BitVec.ofBool (r.getLsbD 0 ^^ r.getLsbD (if mode then 6 else 1)) ++ r.extractLsb' 1 14 := by
  cases mode <;> rfl

/-- `LfsrStep` as arithmetic (rule R657): halve, and add the feedback bit at place 14. -/
theorem lfsrStep_toNat (mode : Bool) (r : BitVec 15) :
    (lfsrStep mode r).toNat = r.toNat / 2 + 0x4000 * ((r.toNat + r.toNat / 2 ^ (if mode then 6 else 1)) % 2) := by
  have hhalf : r.toNat / 2 < 2 ^ 14 := by have := r.isLt; omega
  rw [lfsrStep_eq, append_toNat, ofBool_xor_getLsbD_toNat, BitVec.extractLsb'_toNat, pow_zero, Nat.div_one,
    Nat.shiftRight_one, Nat.mod_eq_of_lt hhalf]
  omega

/-- Settles O24: the first TICK of a period steps the LFSR and loads the timer, from which the others count down; the
step halves the register and feeds the parity of two bits in at the top, which never gives 0. -/
theorem noiseLfsr : Obligations.NoiseLfsr :=
  ⟨fun _ _ htimer hk => noiseTimer_iterate_of_zero htimer hk, fun _ => noiseTimer_of_ne_zero, lfsrStep_toNat,
    fun mode _ => lfsrStep_ne_zero mode⟩

end Sys2Proof.Machine

/-! ### DMC register writes and the restart (rules R701 to R704 and R708) -/

namespace Sys2Proof.Machine

theorem dmcControl_fields (d : Byte) (m : Dmc) :
    (dmcControl d m).irqEnable = flag d 7 ∧ (dmcControl d m).loop = flag d 6 ∧
    (dmcControl d m).rateIndex.toNat = field d 3 0 :=
  ⟨bit_eq_flag d 7, bit_eq_flag d 6, extract_eq_field d 3 0⟩

theorem dmcControl_irqFlag (d : Byte) (m : Dmc) :
    (dmcControl d m).irqFlag = if flag d 7 then m.irqFlag else false := by
  rw [dmcControl, bit_eq_flag]
  cases flag d 7
  · exact Bool.and_false _
  · exact Bool.and_true _

/-- Settles O25: the fields of the control and level registers are those of the data byte, the interrupt flag stays only
under a set enable, and the address and length bytes are stored whole. -/
theorem dmcWrites : Obligations.DmcWrites := by
  intro d s
  obtain ⟨henable, hloop, hrate⟩ := dmcControl_fields d s.apu.dmc
  exact ⟨⟨_, rfl, henable, hloop, hrate, dmcControl_irqFlag d s.apu.dmc, rfl⟩,
    ⟨_, rfl, extract_eq_field d 6 0, rfl⟩, rfl, rfl⟩

/-- Settles O27: neither number reaches the width of its register, and a restart sets those two registers only. -/
theorem dmcRestartAddressAndLength : Obligations.DmcRestartAddressAndLength := by
  intro m
  obtain ⟨haddr, hlen⟩ := dmcRestart_toNat m
  exact ⟨haddr, hlen, rfl⟩

end Sys2Proof.Machine

/-! ### The DMC timer and output unit (rules R705 to R707) -/

namespace Sys2Proof.Machine

/-! One output clock: the shift, then a new output cycle if that was the last bit. -/

/-- A level that moves stays in `0 .. 127` (rule R707). -/
theorem dmcLevelStep_toNat (up : Bool) (v : BitVec 7) :
    (dmcLevelStep up v).toNat =
      if up then (if v.toNat ≤ 125 then v.toNat + 2 else v.toNat)
      else (if 2 ≤ v.toNat then v.toNat - 2 else v.toNat) := by
  rw [dmcLevelStep]
  cases up <;> simp only [Bool.false_eq_true, if_false, if_true] <;> split <;> bv_omega

theorem dmcShift_level_toNat (m : Dmc) :
    (dmcShift m).level.toNat =
      if m.silence then m.level.toNat
      else if m.shift.toNat % 2 = 1 then (if m.level.toNat ≤ 125 then m.level.toNat + 2 else m.level.toNat)
      else (if 2 ≤ m.level.toNat then m.level.toNat - 2 else m.level.toNat) := by
  simp only [dmcShift, apply_ite BitVec.toNat, dmcLevelStep_toNat, BitVec.getLsbD, Nat.testBit_zero,
    decide_eq_true_eq]

theorem dmcShift_shift_toNat (m : Dmc) : (dmcShift m).shift.toNat = m.shift.toNat / 2 := by
  rw [dmcShift, BitVec.toNat_ushiftRight, Nat.shiftRight_one]

theorem dmcNewCycle_of_more_bits {m : Dmc} (h : m.bitsRem ≠ 0) : dmcNewCycle m = m := if_neg h

/-- A new output cycle takes the buffered byte, or is silent if there is none. -/
theorem dmcNewCycle_of_no_bits {m : Dmc} (h : m.bitsRem = 0) :
    dmcNewCycle m =
      { m with bitsRem := 8, silence := !m.bufferFull, bufferFull := false,
               shift := if m.bufferFull then m.buffer else m.shift } := by
  rw [dmcNewCycle, if_pos h]
  cases hfull : m.bufferFull <;> simp

theorem dmcOutputClock_of_more_bits {m : Dmc} (h : 1 < m.bitsRem.toNat) : dmcOutputClock m = dmcShift m :=
  dmcNewCycle_of_more_bits (by simp only [dmcShift]; bv_omega)

theorem dmcOutputClock_of_last_bit {m : Dmc} (h : m.bitsRem = 1) :
    dmcOutputClock m =
      { dmcShift m with bitsRem := 8, silence := !m.bufferFull, bufferFull := false,
                        shift := if m.bufferFull then m.buffer else (dmcShift m).shift } :=
  dmcNewCycle_of_no_bits (by rw [dmcShift, h]; rfl)

/-- A new output cycle leaves the level and every field that the output unit does not own. -/
theorem dmcNewCycle_frame (m : Dmc) :
    dmcNewCycle m =
      { m with shift := (dmcNewCycle m).shift, bitsRem := (dmcNewCycle m).bitsRem,
               silence := (dmcNewCycle m).silence, bufferFull := (dmcNewCycle m).bufferFull } := by
  by_cases h : m.bitsRem = 0
  · rw [dmcNewCycle_of_no_bits h]
  · rw [dmcNewCycle_of_more_bits h]

/-- An output clock changes the level by the shift and, of the rest, only what a new output cycle may change. -/
theorem dmcOutputClock_frame (m : Dmc) :
    dmcOutputClock m =
      { dmcShift m with shift := (dmcOutputClock m).shift, bitsRem := (dmcOutputClock m).bitsRem,
                        silence := (dmcOutputClock m).silence, bufferFull := (dmcOutputClock m).bufferFull } :=
  dmcNewCycle_frame (dmcShift m)

theorem dmcOutputClock_level (m : Dmc) : (dmcOutputClock m).level = (dmcShift m).level := by
  rw [dmcOutputClock_frame m]

/-- The output unit neither reads nor writes the timer. -/
theorem dmcNewCycle_withTimer (m : Dmc) (v : BitVec 9) :
    dmcNewCycle { m with timer := v } = { dmcNewCycle m with timer := v } := by
  by_cases h : m.bitsRem = 0
  · rw [dmcNewCycle_of_no_bits h]; exact dmcNewCycle_of_no_bits h
  · rw [dmcNewCycle_of_more_bits h]; exact dmcNewCycle_of_more_bits h

theorem dmcOutputClock_withTimer (m : Dmc) (v : BitVec 9) :
    dmcOutputClock { m with timer := v } = { dmcOutputClock m with timer := v } :=
  dmcNewCycle_withTimer (dmcShift m) v

/-! The timer: one output clock in `DMC_RATE[rate_index]` TICKs. -/

theorem dmcRate_lt (index : BitVec 4) : dmcRate index < 2 ^ 9 := by
  revert index; decide

theorem dmcTimer_of_zero {m : Dmc} (h : m.timer = 0) :
    dmcTimer m = { dmcOutputClock m with timer := BitVec.ofNat 9 (dmcRate m.rateIndex - 1) } := by
  rw [dmcTimer, if_pos h, dmcOutputClock_withTimer]

theorem dmcTimer_of_ne_zero {m : Dmc} (h : m.timer ≠ 0) : dmcTimer m = { m with timer := m.timer - 1 } :=
  if_neg h

theorem dmcTimer_iterate_countdown (m : Dmc) {n k : Nat} (hn : n < 2 ^ 9) (hk : k ≤ n) :
    dmcTimer^[k] { m with timer := BitVec.ofNat 9 n } = { m with timer := BitVec.ofNat 9 (n - k) } :=
  iterate_countdown (x := fun n => { m with timer := BitVec.ofNat 9 n })
    (fun n hn => by rw [dmcTimer_of_ne_zero (ofNat_succ_ne_zero hn), ofNat_succ_sub_one]) hn hk

/-- One period of the timer: the TICK that finds it at 0 clocks the output unit, and the others only count down. -/
theorem dmcTimer_iterate_of_zero {m : Dmc} (htimer : m.timer = 0) {k : Nat} (hk : k < dmcRate m.rateIndex) :
    dmcTimer^[k + 1] m =
      { dmcOutputClock m with timer := BitVec.ofNat 9 (dmcRate m.rateIndex - 1 - k) } := by
  rw [Function.iterate_succ_apply, dmcTimer_of_zero htimer]
  exact dmcTimer_iterate_countdown (dmcOutputClock m) ((Nat.sub_le _ 1).trans_lt (dmcRate_lt m.rateIndex))
    (Nat.le_sub_one_of_lt hk)

/-- Settles O26: the timer by its period, the level by the shift, and the other fields of the output unit by whether the
bit was the last of its cycle. -/
theorem dmcOutputUnit : Obligations.DmcOutputUnit := by
  refine ⟨fun m k htimer hk => dmcTimer_iterate_of_zero htimer hk, fun m => dmcTimer_of_ne_zero,
    fun m => ⟨?frame, ?level, fun hlast => ?last, fun hmore => ?more⟩⟩
  case frame => rw [dmcOutputClock_level]; exact dmcOutputClock_frame m
  case level => rw [dmcOutputClock_level, dmcShift_level_toNat]
  case last =>
    rw [dmcOutputClock_of_last_bit hlast]
    exact ⟨rfl, rfl, rfl, fun hfull => if_pos hfull,
      fun hempty => by simp only [hempty, Bool.false_eq_true, if_false, dmcShift_shift_toNat]⟩
  case more =>
    rw [dmcOutputClock_of_more_bits hmore]
    exact ⟨by simp only [dmcShift]; bv_omega, rfl, rfl, dmcShift_shift_toNat m⟩

end Sys2Proof.Machine

/-! ### The DMC memory reader (rules R210 and R716) -/

namespace Sys2Proof.Machine

theorem dmcFetches_iff (m : Dmc) : dmcFetches m = true ↔ m.bufferFull = false ∧ m.bytesRem ≠ 0 := by
  simp [dmcFetches, dmcActive]

/-- The host's answer is the byte it has fixed at the address, if it has. -/
theorem memAnswer_of_lookup {s : State} {a : Addr} {b : Byte} (h : s.host.memory.lookup a.toNat = some b) :
    memAnswer s a = b := by
  rw [memAnswer, h]

theorem dmcNextAddr_toNat (a : Addr) :
    (dmcNextAddr a).toNat = if a.toNat = 0xFFFF then 0x8000 else a.toNat + 1 := by
  rw [dmcNextAddr]
  split <;> split <;> bv_omega

/-! What a fetch does, by whether the byte is the last of the sample and the sample loops. -/

theorem dmcFetched_of_more_bytes (v : Byte) {m : Dmc} (hone : m.bytesRem ≠ 1) :
    dmcFetched v m = { m with buffer := v, bufferFull := true, curAddr := dmcNextAddr m.curAddr,
                              bytesRem := m.bytesRem - 1 } := by
  have hrest : m.bytesRem - 1 ≠ 0 := by bv_omega
  exact if_neg hrest

theorem dmcFetched_of_last_loop (v : Byte) {m : Dmc} (hone : m.bytesRem = 1) (hloop : m.loop = true) :
    dmcFetched v m = dmcRestart { m with buffer := v, bufferFull := true } := by
  simp [dmcFetched, dmcSampleEnd, dmcRestart, hone, hloop]

theorem dmcFetched_of_last_once (v : Byte) {m : Dmc} (hone : m.bytesRem = 1) (hloop : m.loop = false) :
    dmcFetched v m = { m with buffer := v, bufferFull := true, curAddr := dmcNextAddr m.curAddr, bytesRem := 0,
                              irqFlag := m.irqFlag || m.irqEnable } := by
  simp [dmcFetched, dmcSampleEnd, hone, hloop]

/-- Settles O28: the reader fetches or rests by its two conditions, and a fetch leaves the DMC by the three cases of the
byte fetched. -/
theorem dmcMemoryReader : Obligations.DmcMemoryReader := by
  intro s
  have hiff := dmcFetches_iff s.apu.dmc
  obtain ⟨hrests, hreader⟩ | ⟨hfetches, hreader⟩ := dmcReader_cases s
  · exact ⟨fun _ => hreader, fun hfetches => absurd (hiff.mpr hfetches) (Bool.eq_false_iff.mp hrests)⟩
  · refine ⟨fun hrests => absurd (hiff.mp hfetches) hrests,
      fun _ => ⟨_, _, hreader, fun _ => memAnswer_of_lookup, ?_⟩⟩
    obtain ⟨hbuffer, hfull⟩ := dmcFetched_buffer (memAnswer s s.apu.dmc.curAddr) s.apu.dmc
    refine ⟨hbuffer, hfull, fun hone => ?more, fun hone hloop => dmcFetched_of_last_loop _ hone hloop,
      fun hone hloop => ?last⟩
    case more =>
      rw [dmcFetched_of_more_bytes _ hone]
      exact ⟨rfl, dmcNextAddr_toNat _⟩
    case last =>
      rw [dmcFetched_of_last_once _ hone hloop]
      exact ⟨rfl, dmcNextAddr_toNat _⟩

end Sys2Proof.Machine

/-! ### The status register (rules R751 and R752) -/

namespace Sys2Proof.Machine

theorem dmcEnable_of_bytes {m : Dmc} (h : m.bytesRem ≠ 0) : dmcEnable true m = m := if_neg h

theorem dmcEnable_of_no_bytes {m : Dmc} (h : m.bytesRem = 0) : dmcEnable true m = dmcRestart m := if_pos h

/-- Settles O29: the four length counters by their enable bits, and the DMC by its enable bit and the bytes that remain.
(The name `statusWrite` is the model's function.) -/
theorem statusWriteSetsTheEnables : Obligations.StatusWrite := by
  intro d s
  refine ⟨clearDmcIrq (dmcEnable (flag d 4) s.apu.dmc), ?write, rfl, fun hoff => ?off, fun hon hmore => ?running,
    fun hon hnone => ?restart⟩
  case write => simp only [← bit_eq_flag]; rfl
  case off => rw [hoff]; rfl
  case running => rw [hon, dmcEnable_of_bytes hmore]; rfl
  case restart => rw [hon, dmcEnable_of_no_bytes hnone]; rfl

/-- The status byte is a concatenation of its eight bits; bit 5 is the one given. -/
theorem flag_statusByte (a : Apu) (bit5 : Bool) :
    flag (statusByte a bit5) 7 = a.dmc.irqFlag ∧ flag (statusByte a bit5) 6 = a.frame.frameIrq ∧
      flag (statusByte a bit5) 4 = dmcActive a.dmc ∧ flag (statusByte a bit5) 3 = lengthActive a.noise.length ∧
      flag (statusByte a bit5) 2 = lengthActive a.tri.length ∧
      flag (statusByte a bit5) 1 = lengthActive a.pulse2.length ∧
      flag (statusByte a bit5) 0 = lengthActive a.pulse1.length := by
  rw [statusByte]
  generalize a.dmc.irqFlag = b7, a.frame.frameIrq = b6, dmcActive a.dmc = b4, lengthActive a.noise.length = b3,
    lengthActive a.tri.length = b2, lengthActive a.pulse2.length = b1, lengthActive a.pulse1.length = b0
  revert b7 b6 bit5 b4 b3 b2 b1 b0
  decide

theorem lengthActive_iff (len : BitVec 8) : lengthActive len = true ↔ 0 < len.toNat := by
  rw [lengthActive, bne_iff_ne]; bv_omega

theorem dmcActive_iff (m : Dmc) : dmcActive m = true ↔ 0 < m.bytesRem.toNat := by
  rw [dmcActive, bne_iff_ne]; bv_omega

/-- Settles O30: the reply is the status byte, whose bits are the flags. -/
theorem statusRead : Obligations.StatusRead := by
  intro s
  obtain ⟨hdmcIrq, hframeIrq, hdmc, hnoise, htri, hpulse2, hpulse1⟩ :=
    flag_statusByte s.apu ((Config.openBus s.host.draws).getLsbD 5)
  refine ⟨statusReply s, rfl, hdmcIrq, hframeIrq, ?_⟩
  rw [statusReply, hdmc, hnoise, htri, hpulse2, hpulse1]
  exact ⟨dmcActive_iff _, lengthActive_iff _, lengthActive_iff _, lengthActive_iff _, lengthActive_iff _⟩

end Sys2Proof.Machine

/-! ### The frame counter (rules R753, R760, R761 and R1010) -/

namespace Sys2Proof.Machine

/-- Clearing the flag where bit 6 is set is masking it with that bit. -/
theorem frameWrite_eq (d : Byte) (cycle : Nat) (f : Frame) :
    frameWrite d cycle f = { f with mode := flag d 7, irqInhibit := flag d 6, pending := frameDelay cycle,
                                    frameIrq := if flag d 6 then false else f.frameIrq } := by
  rw [frameWrite, bit_eq_flag, bit_eq_flag]
  cases flag d 6 <;> simp

/-- Settles O31: the write touches the frame counter's registers only. -/
theorem frameCounterWrite : Obligations.FrameCounterWrite := by
  intro d s
  have hexec : exec (.wrFrameCounter d) s =
    .next (s.withApu { s.apu with frame := frameWrite d s.dev.cycle s.apu.frame }) := rfl
  rw [hexec, frameWrite_eq]
  rfl

/-! What one tick does to the count, by whether a reset is due. -/

theorem frameCount_succ_toNat (f : Frame) : (f.count + 1).toNat = (f.count.toNat + 1) % 0x10000 := by
  rw [BitVec.toNat_add]; rfl

theorem frameTick_count_toNat {a : Apu} (h : a.frame.pending ≠ 1) :
    (frameTick a).frame.count.toNat =
      if (a.frame.count.toNat + 1) % 0x10000 = (if a.frame.mode then 37282 else 29830) then 0
      else (a.frame.count.toNat + 1) % 0x10000 := by
  rw [frameTick_step a h, frameSteps, ← frameCount_succ_toNat]
  simp only [wrapAt, decide_eq_true_eq, apply_ite BitVec.toNat]
  rfl

/-- Below the length of the mode's sequence the count runs modulo that length. -/
theorem frameTick_count_of_lt {a : Apu} (h : a.frame.pending ≠ 1)
    (hlt : a.frame.count.toNat < if a.frame.mode then 37282 else 29830) :
    (frameTick a).frame.count.toNat = (a.frame.count.toNat + 1) % (if a.frame.mode then 37282 else 29830) := by
  have hlen : (if a.frame.mode then 37282 else 29830) < 0x10000 := by split <;> decide
  rw [frameTick_count_toNat h, Nat.mod_eq_of_lt (by omega)]
  by_cases hend : a.frame.count.toNat + 1 = if a.frame.mode then 37282 else 29830
  · rw [if_pos hend, hend, Nat.mod_self]
  · rw [if_neg hend, Nat.mod_eq_of_lt (by omega)]

/-- At or above the length the count just goes on. -/
theorem frameTick_count_of_ge {a : Apu} (h : a.frame.pending ≠ 1)
    (hge : (if a.frame.mode then 37282 else 29830) ≤ a.frame.count.toNat) (hfits : a.frame.count.toNat + 1 < 0x10000) :
    (frameTick a).frame.count.toNat = a.frame.count.toNat + 1 := by
  rw [frameTick_count_toNat h, Nat.mod_eq_of_lt hfits, if_neg (by omega)]

/-! What `k` ticks do, while the delay of a reset does not run out in them. -/

theorem frameTick_iterate_pending (a : Apu) (k : Nat) :
    (frameTick^[k] a).frame.pending = a.frame.pending - k := by
  induction k with
  | zero => rfl
  | succ k ih =>
    obtain ⟨hpending, -⟩ := frameTick_frame (frameTick^[k] a)
    rw [Function.iterate_succ_apply', hpending, ih, Nat.sub_sub]

theorem frameTick_iterate_mode (a : Apu) (k : Nat) : (frameTick^[k] a).frame.mode = a.frame.mode := by
  induction k with
  | zero => rfl
  | succ k ih =>
    obtain ⟨-, hmode, -⟩ := frameTick_frame (frameTick^[k] a)
    rw [Function.iterate_succ_apply', hmode, ih]

/-- No reset is due after `k` ticks. -/
theorem frameTick_iterate_pending_ne_one {a : Apu} {k : Nat} (h : a.frame.pending = 0 ∨ k + 1 < a.frame.pending) :
    (frameTick^[k] a).frame.pending ≠ 1 := by
  rw [frameTick_iterate_pending]; omega

theorem frameTick_iterate_count_of_lt {a : Apu} {k : Nat} (h : a.frame.pending = 0 ∨ k < a.frame.pending)
    (hlt : a.frame.count.toNat < if a.frame.mode then 37282 else 29830) :
    (frameTick^[k] a).frame.count.toNat = (a.frame.count.toNat + k) % (if a.frame.mode then 37282 else 29830) := by
  induction k with
  | zero => exact (Nat.mod_eq_of_lt hlt).symm
  | succ k ih =>
    have hcount := ih (by omega)
    have hbelow := hcount.trans_lt (Nat.mod_lt _ (Nat.zero_lt_of_lt hlt))
    rw [← frameTick_iterate_mode a k] at hbelow
    rw [Function.iterate_succ_apply', frameTick_count_of_lt (frameTick_iterate_pending_ne_one h) hbelow,
      frameTick_iterate_mode, hcount, Nat.mod_add_mod, Nat.add_assoc]

theorem frameTick_iterate_count_of_ge {a : Apu} {k : Nat} (h : a.frame.pending = 0 ∨ k < a.frame.pending)
    (hge : (if a.frame.mode then 37282 else 29830) ≤ a.frame.count.toNat) (hfits : a.frame.count.toNat + k < 0x10000) :
    (frameTick^[k] a).frame.count.toNat = a.frame.count.toNat + k := by
  induction k with
  | zero => rfl
  | succ k ih =>
    have hcount := ih (by omega) (by omega)
    rw [Function.iterate_succ_apply', frameTick_count_of_ge (frameTick_iterate_pending_ne_one h)
      (by rw [frameTick_iterate_mode, hcount]; omega) (by omega), hcount, Nat.add_assoc]

/-- Settles O32: the ticks of the delay only count, the one after them resets, and without a delay the count runs modulo
the length of the sequence. -/
theorem frameCounterTiming : Obligations.FrameCounterTiming := by
  refine ⟨fun a n hpending => ⟨fun k hk => ⟨?_, frameTick_iterate_mode a k,
    frameTick_iterate_count_of_lt (.inr (by omega)), frameTick_iterate_count_of_ge (.inr (by omega))⟩, ?_, ?_⟩,
    fun a k hzero hnone => ⟨fun hk => ?_, ?_, ?_, frameTick_iterate_mode a _⟩⟩
  · rw [frameTick_iterate_pending, hpending]
  · rw [frameTick_iterate_pending, hpending, Nat.sub_self]
  · have hdue : (frameTick^[n] a).frame.pending = 1 := by rw [frameTick_iterate_pending, hpending]; omega
    rw [Function.iterate_succ_apply', frameTick_reset _ hdue]
  · rw [frameTick_iterate_count_of_lt (.inl hnone) (by rw [hzero]; exact Nat.zero_lt_of_lt hk), hzero]
    simpa using Nat.mod_eq_of_lt hk
  · apply BitVec.eq_of_toNat_eq
    rw [frameTick_iterate_count_of_lt (.inl hnone) (by rw [hzero]; split <;> decide), hzero]
    simp
  · rw [frameTick_iterate_pending, hnone, Nat.zero_sub]

/-! The positions of the sequences, and what a tick clocks at each count. -/

theorem quarterAt_iff (fiveStep : Bool) (n : Nat) :
    quarterAt fiveStep n = true ↔
      if fiveStep then n ∈ [7457, 14913, 22371, 37281] else n ∈ [7457, 14913, 22371, 29829] := by
  cases fiveStep <;> simp [quarterAt, or_assoc]

theorem halfAt_iff (fiveStep : Bool) (n : Nat) :
    halfAt fiveStep n = true ↔ if fiveStep then n ∈ [14913, 37281] else n ∈ [14913, 29829] := by
  cases fiveStep <;> simp [halfAt]

/-- Every half frame falls at a quarter frame. -/
theorem quarterAt_of_halfAt {fiveStep : Bool} {n : Nat} (h : halfAt fiveStep n = true) :
    quarterAt fiveStep n = true := by
  simp only [halfAt, Bool.or_eq_true, decide_eq_true_eq] at h
  simp only [quarterAt, Bool.or_eq_true, decide_eq_true_eq]
  tauto

/-- Apart from the frame counter itself, a tick with no reset due does what the count just reached clocks. -/
theorem frameTick_eq_frameClocks {a : Apu} (h : a.frame.pending ≠ 1) :
    frameTick a =
      { frameClocks { a with frame := { a.frame with count := a.frame.count + 1 } } with
        frame := (frameTick a).frame } := by
  rw [frameTick_step a h, frameSteps, frameClocks, frameClocks]
  dsimp only
  split <;> split <;> rfl

theorem frameTick_of_half {a : Apu} (h : a.frame.pending ≠ 1)
    (hhalf : halfAt a.frame.mode ((a.frame.count.toNat + 1) % 0x10000) = true) :
    frameTick a = { halfFrame (quarterFrame a) with frame := (frameTick a).frame } := by
  have hclocks := frameTick_eq_frameClocks h
  simp only [frameClocks, frameCount_succ_toNat, quarterAt_of_halfAt hhalf, hhalf, if_true] at hclocks
  exact hclocks

theorem frameTick_of_quarter {a : Apu} (h : a.frame.pending ≠ 1)
    (hquarter : quarterAt a.frame.mode ((a.frame.count.toNat + 1) % 0x10000) = true)
    (hhalf : ¬halfAt a.frame.mode ((a.frame.count.toNat + 1) % 0x10000) = true) :
    frameTick a = { quarterFrame a with frame := (frameTick a).frame } := by
  have hclocks := frameTick_eq_frameClocks h
  simp only [frameClocks, frameCount_succ_toNat, hquarter, hhalf, if_true] at hclocks
  exact hclocks

theorem frameTick_of_neither {a : Apu} (h : a.frame.pending ≠ 1)
    (hquarter : ¬quarterAt a.frame.mode ((a.frame.count.toNat + 1) % 0x10000) = true) :
    frameTick a = { a with frame := (frameTick a).frame } := by
  have hclocks := frameTick_eq_frameClocks h
  have hhalf := mt quarterAt_of_halfAt hquarter
  simp only [frameClocks, frameCount_succ_toNat, hquarter, hhalf] at hclocks
  exact hclocks

/-- A tick changes the pending delay, the count and the interrupt flag of the frame counter, and nothing else of it. -/
theorem frameTick_frame_eq (a : Apu) :
    (frameTick a).frame = { a.frame with
      pending := a.frame.pending - 1, count := (frameTick a).frame.count,
      frameIrq := (frameTick a).frame.frameIrq } := by
  obtain ⟨hpending, hmode, hinhibit⟩ := frameTick_frame a
  dsimp only
  rw [← hpending, ← hmode, ← hinhibit]

theorem frameTick_irq_of_at {a : Apu} (h : a.frame.pending ≠ 1)
    (hat : irqAt a.frame.mode ((a.frame.count.toNat + 1) % 0x10000) = true) (hinhibit : a.frame.irqInhibit = false) :
    (frameTick a).frame.frameIrq = true := by
  simp [frameTick_irq, h, hat, hinhibit]

theorem frameTick_irq_of_not_at {a : Apu}
    (h : ¬(irqAt a.frame.mode ((a.frame.count.toNat + 1) % 0x10000) = true ∧ a.frame.irqInhibit = false)) :
    (frameTick a).frame.frameIrq = a.frame.frameIrq := by
  have hquiet : (irqAt a.frame.mode ((a.frame.count.toNat + 1) % 0x10000) && !a.frame.irqInhibit) = false := by
    rw [← Bool.not_eq_true, Bool.and_eq_true, Bool.not_eq_true']; exact h
  rw [frameTick_irq, frameCount_succ_toNat, Bool.and_assoc, hquiet, Bool.and_false, Bool.or_false]

/-- A due reset of the 5-step sequence clocks both, after the count is reset. -/
theorem frameTick_reset_fiveStep {a : Apu} (h : a.frame.pending = 1) (hmode : a.frame.mode = true) :
    frameTick a = { halfFrame (quarterFrame a) with frame := { a.frame with pending := 0, count := 0 } } := by
  rw [frameTick, if_pos h]
  simp only [hmode, if_true]
  rfl

theorem frameTick_reset_fourStep {a : Apu} (h : a.frame.pending = 1) (hmode : a.frame.mode = false) :
    frameTick a = { a with frame := { a.frame with pending := 0, count := 0 } } := by
  rw [frameTick, if_pos h]
  simp [hmode]

/-! What the quarter and the half frame change. -/

theorem linearQuarter_eq (t : Triangle) :
    linearQuarter t = { t with
      linear := if t.linearReload then t.linearReloadValue else if t.linear = 0 then 0 else t.linear - 1,
      linearReload := if t.control then t.linearReload else false } := by
  rw [linearQuarter]
  cases t.control <;> simp

theorem lengthHalf_toNat (halt : Bool) (len : BitVec 8) :
    (lengthHalf halt len).toNat = if halt then len.toNat else len.toNat - 1 := by
  cases halt
  case true => rfl
  case false =>
    by_cases hzero : len = 0
    · subst hzero; rfl
    · rw [lengthHalf, if_pos (by simpa [lengthActive] using hzero), if_neg (by simp)]
      bv_omega

/-- Settles O33: the clocks and the flag by the positions of the mode's table, the reset by the mode, and the two clocks
unit by unit. -/
theorem quarterAndHalfFramesFallAtTheRulesPositions : Obligations.QuarterAndHalfFramesFallAtTheRulesPositions := by
  refine ⟨fun a hpending => ?positions,
    fun a hdue => ⟨frameTick_reset_fiveStep hdue, frameTick_reset_fourStep hdue⟩,
    fun a => by rw [← linearQuarter_eq]; rfl,
    fun a => ⟨_, _, _, _, rfl, lengthHalf_toNat _ _, lengthHalf_toNat _ _, lengthHalf_toNat _ _,
      lengthHalf_toNat _ _⟩⟩
  case positions =>
    intro n q h i
    have hquarter : quarterAt a.frame.mode n = true ↔ q := quarterAt_iff _ _
    have hhalf : halfAt a.frame.mode n = true ↔ h := halfAt_iff _ _
    have hirq : irqAt a.frame.mode n = true ∧ a.frame.irqInhibit = false ↔ i := by rw [irqAt_iff, and_assoc]
    refine ⟨fun _ hh => frameTick_of_half hpending (hhalf.mpr hh),
      fun hq hh => frameTick_of_quarter hpending (hquarter.mpr hq) (mt hhalf.mp hh),
      fun hq => ⟨fun hh => hq (hquarter.mp (quarterAt_of_halfAt (hhalf.mpr hh))),
        frameTick_of_neither hpending (mt hquarter.mp hq)⟩,
      fun hi => ?_, fun hi => frameTick_irq_of_not_at (mt hirq.mp hi), frameTick_frame_eq a,
      frameTick_count_toNat hpending⟩
    obtain ⟨hat, hinhibit⟩ := hirq.mpr hi
    exact frameTick_irq_of_at hpending hat hinhibit

end Sys2Proof.Machine

/-! ### The whole TICK (rules R450, R455, R770 and R902) -/

namespace Sys2Proof.Machine

/-- The first half of a TICK: the 2A03 units and the memory reader, then the first two steps of the FDS tick. -/
theorem tickBegin_eq (s : State) :
    tickBegin s = { dmcReader (s.withApu (apuTick s.dev.cycle s.apu)) with
      fds := fdsEnvelopeStep (fdsLatchStep s.fds) } := by
  rw [← tickBegin_fds]; rfl

/-- A command moves the position by a function of the command alone. -/
theorem modExec_moves {c : Byte} (h : c.toNat < 8) :
    ∃ g : BitVec 7 → BitVec 7, ∀ s, modExec c s = .next (movePosition g s) := by
  have hcommands : c = 0#8 ∨ c = 1#8 ∨ c = 2#8 ∨ c = 3#8 ∨ c = 4#8 ∨ c = 5#8 ∨ c = 6#8 ∨ c = 7#8 := by bv_omega
  obtain rfl | rfl | rfl | rfl | rfl | rfl | rfl | rfl := hcommands
  · exact ⟨id, fun _ => rfl⟩
  all_goals exact ⟨_, fun _ => rfl⟩

/-- What one clock of the modulator does, by the modulator and the parameters alone: it moves the position and, unless
halted, adds the frequency to the phase; or it faults on an entry that is no command. -/
theorem modClock_by_mod (params : Params) (m : FdsMod) :
    (∃ p q, (q.toNat = if m.halt then m.phase.toNat else (m.phase.toNat + m.frequency.toNat) % 0x400000) ∧
      ∀ s : State, s.fds.mod = m → s.params = params → modClock s = .next (withPosPhase p q s)) ∨
    (8 ≤ (modEntry m (modCommandIndex params.modTableIndex m)).toNat ∧
      ∀ s : State, s.fds.mod = m → s.params = params → modClock s = .fault .badModCommand) := by
  cases hhalt : m.halt with
  | true =>
    refine .inl ⟨m.position, m.phase, rfl, fun s hm _ => ?_⟩
    subst hm
    exact modClock_of_halt hhalt
  | false =>
    have hphase : (BitVec.ofNat 22 (modNewPhase m)).toNat = (m.phase.toNat + m.frequency.toNat) % 0x400000 :=
      BitVec.toNat_ofNat _ _
    obtain hinside | hcross := (Nat.div_le_div_right (Nat.le_add_right _ _) :
      m.phase.toNat / 0x10000 ≤ modNewPhase m / 0x10000).eq_or_lt
    · refine .inl ⟨m.position, _, hphase, fun s hm _ => ?_⟩
      subst hm
      exact modClock_of_not_crosses hhalt hinside.symm
    · by_cases hlegal : (modEntry m (modCommandIndex params.modTableIndex m)).toNat < 8
      · obtain ⟨g, hg⟩ := modExec_moves hlegal
        refine .inl ⟨g m.position, _, hphase, fun s hm hparams => ?_⟩
        subst hm hparams
        exact modClock_of_crosses hhalt hcross (hg s)
      · refine .inr ⟨not_lt.mp hlegal, fun s hm hparams => ?_⟩
        subst hm hparams
        exact modClock_of_bad hhalt hcross (not_lt.mp hlegal)

/-- A clock of a modulator whose table holds commands moves position and phase only, the phase by the frequency. -/
theorem modClock_legal {s : State} (h : CommandsLegal s.fds.mod) :
    ∃ p q, modClock s = .next (withPosPhase p q s) ∧
      q.toNat = if s.fds.mod.halt then s.fds.mod.phase.toNat
        else (s.fds.mod.phase.toNat + s.fds.mod.frequency.toNat) % 0x400000 := by
  obtain ⟨p, q, hphase, hclock⟩ | ⟨hbad, -⟩ := modClock_by_mod s.params s.fds.mod
  · exact ⟨p, q, hclock s rfl rfl, hphase⟩
  · exact absurd (modCommand_legal h) (not_lt.mpr hbad)

/-- Settles O46: the first half is the units up to the envelopes, and the modulator's clock moves position and phase. -/
theorem tickRunsEveryUnitOnce : Obligations.TickRunsEveryUnitOnce := by
  intro s hlegal a r b
  have hbegin : tickBegin s = b := tickBegin_eq s
  have hmod : b.fds.mod = s.fds.mod := by rw [← hbegin, tickBegin_mod]
  obtain ⟨p, q, hclock, hphase⟩ := modClock_legal (s := b) (by rwa [hmod])
  obtain ⟨hdev, hchannels, hparams, hops, hindex, hmemory, -⟩ := tickBegin_keeps s
  rw [hbegin] at hdev hchannels hparams hops hindex hmemory
  refine ⟨withPosPhase p q b, hclock, ?tick, ?modulator, ?phase, rfl, rfl, hchannels, hparams, hops, hindex, hmemory⟩
  case tick =>
    have htick : exec .tick s = .next (tickEnd (tableIndex s.fds.wave.phase) (withPosPhase p q b)) := by
      simp only [exec, execTick, hbegin, hclock]
    rw [htick, tableIndex_eq_ofNat, ← hdev, ← hparams]
    rfl
  case modulator => rw [← hmod]; rfl
  case phase => rw [hmod] at hphase; exact hphase

/-! What the two halves of a TICK depend on (rule R770). -/

/-- The host's answer depends on the host's side only. -/
theorem memAnswer_congr {s t : State} (h : s.host = t.host) (a : Addr) : memAnswer s a = memAnswer t a := by
  rw [memAnswer, memAnswer, h]

/-- The memory reader leaves the 2A03 or puts the byte it fetches in the DMC. -/
theorem dmcReader_apu (s : State) :
    (dmcReader s).apu = if dmcFetches s.apu.dmc then
      { s.apu with dmc := dmcFetched (memAnswer s s.apu.dmc.curAddr) s.apu.dmc } else s.apu := by
  obtain ⟨hfetches, h⟩ | ⟨hfetches, h⟩ := dmcReader_cases s <;> simp [h, hfetches]

/-- What the memory reader leaves of the 2A03 depends on the 2A03 and the host's side. -/
theorem dmcReader_apu_congr {s t : State} (hapu : s.apu = t.apu) (hhost : s.host = t.host) :
    (dmcReader s).apu = (dmcReader t).apu := by
  rw [dmcReader_apu, dmcReader_apu, hapu, memAnswer_congr hhost]

/-- The 2A03 after a TICK depends on the 2A03, the count of cycles and the host's side. -/
theorem execTick_apu_congr {s t s' t' : State} (hdev : s.dev = t.dev) (hapu : s.apu = t.apu) (hhost : s.host = t.host)
    (hs : execTick s = .next s') (ht : execTick t = .next t') : s'.apu = t'.apu := by
  obtain ⟨hs', -⟩ := execTick_next hs
  obtain ⟨ht', -⟩ := execTick_next ht
  obtain ⟨-, -, -, -, -, -, -, hbegins⟩ := tickBegin_keeps s
  obtain ⟨-, -, -, -, -, -, -, hbegint⟩ := tickBegin_keeps t
  rw [hs', ht', hbegins, hbegint, hdev, hapu]
  exact dmcReader_apu_congr rfl hhost

/-- The FDS and the bookkeeping after a TICK depend on the FDS, the parameters and the bookkeeping. -/
theorem execTick_fds_congr {s t s' t' : State} (hdev : s.dev = t.dev) (hfds : s.fds = t.fds)
    (hparams : s.params = t.params) (hs : execTick s = .next s') (ht : execTick t = .next t') :
    s'.fds = t'.fds ∧ s'.dev = t'.dev := by
  obtain ⟨hdevs, -, hparamss, -⟩ := tickBegin_keeps s
  obtain ⟨hdevt, -, hparamst, -⟩ := tickBegin_keeps t
  have hmods : (tickBegin s).fds.mod = t.fds.mod := by rw [tickBegin_mod, hfds]
  rw [hparams] at hparamss
  obtain ⟨p, q, -, hclock⟩ | ⟨-, hclock⟩ := modClock_by_mod t.params t.fds.mod
  · rw [execTick, hclock _ hmods hparamss] at hs
    rw [execTick, hclock _ (tickBegin_mod t) hparamst] at ht
    obtain rfl := Host.Outcome.next.inj hs
    obtain rfl := Host.Outcome.next.inj ht
    simp [withPosPhase, tickBegin_fds, hdevs, hdevt, hparamss, hparamst, hdev, hfds]
  · rw [execTick, hclock _ hmods hparamss] at hs
    rw [execTick, hclock _ (tickBegin_mod t) hparamst] at ht
    obtain rfl := Host.Outcome.next.inj hs
    obtain rfl := Host.Outcome.next.inj ht
    simp [tickBegin_fds, hdevs, hdevt, hdev, hfds]

/-- Settles O48: each half of a TICK by what it depends on. -/
theorem fdsAndApuDoNotInterfere : Obligations.FdsAndApuDoNotInterfere :=
  fun _ _ _ _ hdev hs ht => ⟨fun hfds hparams => execTick_fds_congr hdev hfds hparams hs ht,
    fun hapu hhost => execTick_apu_congr hdev hapu hhost hs ht⟩

/-! The fault of a TICK (rule R902), and why no legal table reaches it (rules R321 and R409). -/

/-- A TICK whose boundary executes a bad entry ends there. -/
theorem execTick_of_bad {s : State} (hrun : s.fds.mod.halt = false)
    (hcross : s.fds.mod.phase.toNat / 0x10000 < modNewPhase s.fds.mod / 0x10000)
    (hbad : 8 ≤ (modCommand s).toNat) : execTick s = .next (takeFault .badModCommand (tickBegin s)) := by
  have hclock : modClock (tickBegin s) = .fault .badModCommand :=
    modClock_of_bad (by rwa [tickBegin_mod]) (by rwa [tickBegin_mod]) (by rwa [modCommand_tickBegin])
  rw [execTick, hclock]

theorem recordChannel_fds (ch : Channel) (s : State) : (recordChannel ch s).fds = s.fds := by
  obtain ⟨v, hv⟩ := recordChannel_eq ch s
  rw [hv]

theorem recordFds_mod (s : State) : (recordFds s).fds.mod = s.fds.mod := by
  obtain ⟨v, hv⟩ := recordFds_eq s
  rw [hv]

/-- Every instruction stores commands only, or leaves the table. -/
theorem exec_keeps_commands {i : Instr} {s t : State} (h : exec i s = .next t) (hlegal : CommandsLegal s.fds.mod) :
    CommandsLegal t.fds.mod := by
  cases i
  case tick =>
    obtain ⟨p, q, hnext⟩ := execTick_legal hlegal
    obtain rfl := Host.Outcome.next.inj (hnext.symm.trans h)
    exact legal_of_table (by simp [withPosPhase]) hlegal
  all_goals obtain rfl := Host.Outcome.next.inj h
  case wrFdsModTable d => exact modTableWrite_legal _ d hlegal
  case recP1 | recP2 | recTri | recNoi | recDmc => rwa [recordChannel_fds]
  case recFds => rwa [recordFds_mod]
  all_goals exact legal_of_table rfl hlegal

/-- With a table of commands no instruction sets the mark of a fault. -/
theorem exec_keeps_unfaulted {i : Instr} {s t : State} (h : exec i s = .next t) (hlegal : CommandsLegal s.fds.mod) :
    t.dev.faulted = s.dev.faulted := by
  cases exec_flagEffect h with
  | tick ht =>
    obtain ⟨p, q, hnext⟩ := execTick_legal hlegal
    obtain rfl := Host.Outcome.next.inj (hnext.symm.trans ht)
    obtain ⟨hdev, -⟩ := tickBegin_keeps s
    simp [withPosPhase, hdev]
  | none hdev => rw [hdev]
  | refused | readStatus | writeStatus | writeDmcControl | writeFrameCounter => rfl

theorem step_of_faulted {s : State} {w : OpWord} {rest : List OpWord} (hops : s.host.ops = w :: rest)
    (hfaulted : s.dev.faulted = true) : step s = .next (s.tookOperation rest) := by
  simp [step, nextOperation_of_ops hops, hfaulted]

theorem step_keeps_legal {s t : State} (hlegal : CommandsLegal s.fds.mod) (hrunning : s.dev.faulted = false)
    (h : step s = .next t) : CommandsLegal t.fds.mod ∧ t.dev.faulted = false := by
  obtain ⟨w, rest, -, ⟨hstuck, -⟩ | ⟨-, i, -, hexec⟩ | ⟨-, c, -, rfl⟩⟩ := step_cases h
  · rw [hrunning] at hstuck; contradiction
  · have hsame := exec_keeps_unfaulted hexec hlegal
    exact ⟨exec_keeps_commands hexec hlegal, by rwa [tookOperation_dev, hrunning] at hsame⟩
  · exact ⟨hlegal, hrunning⟩

/-- Every entry of the table at power-up is the no-op. -/
theorem modEntry_reset (i : BitVec 6) : modEntry State.reset.fds.mod i = 0 := by
  simp [State.reset, Fds.reset, FdsMod.reset, modEntry]

theorem commandsLegal_reset : CommandsLegal State.reset.fds.mod := fun i => by rw [modEntry_reset]; decide

/-- Settles O7: the fault by the modulator's clock, the rest of a faulted device by the step, and a legal table is
kept. -/
theorem badCommandFaultsTheTickAndTheDeviceIsStuck : Obligations.BadCommandFaultsTheTickAndTheDeviceIsStuck := by
  refine ⟨fun s hrun hcross hbad => ?_, fun s w rest => step_of_faulted, fun s t => step_keeps_legal,
    commandsLegal_reset, rfl⟩
  obtain ⟨hdev, hchannels, hparams, -, -, -, hfds, hapu⟩ := tickBegin_keeps s
  exact ⟨_, execTick_of_bad hrun hcross hbad, by simp [hdev], hapu, hfds, hchannels, hparams⟩

end Sys2Proof.Machine

/-! ### Every instruction completes, and leaves the host's side alone (rules R900 and R920) -/

namespace Sys2Proof.Machine

/-- What no instruction changes: the parameters, the host's sequence and memory, and the mute flags. -/
def LeavesHostAlone (s t : State) : Prop :=
  t.params = s.params ∧ t.host.ops = s.host.ops ∧ t.host.index = s.host.index ∧ t.host.memory = s.host.memory ∧
    ∀ ch, isMuted ch t = isMuted ch s

theorem recordChannel_leavesHostAlone (ch : Channel) (s : State) : LeavesHostAlone s (recordChannel ch s) := by
  obtain ⟨v, hv⟩ := recordChannel_eq ch s
  rw [hv]
  exact ⟨rfl, rfl, rfl, rfl, fun k => isMuted_set_push s ch k v _⟩

theorem recordFds_leavesHostAlone (s : State) : LeavesHostAlone s (recordFds s) := by
  obtain ⟨v, hv⟩ := recordFds_eq s
  rw [hv]
  exact ⟨rfl, rfl, rfl, rfl, fun k => isMuted_set_push s .fds k v _⟩

/-- A TICK ends normally or takes the fault, and both leave the host's side as its first half does. -/
theorem execTick_completes (s : State) : ∃ t, execTick s = .next t ∧ LeavesHostAlone s t := by
  obtain ⟨-, hchannels, hparams, hops, hindex, hmemory, -⟩ := tickBegin_keeps s
  have hmuted : ∀ ch, isMuted ch (tickBegin s) = isMuted ch s := fun ch => by rw [isMuted, hchannels, isMuted]
  obtain ⟨p, q, h⟩ | ⟨-, h⟩ := execTick_cases s <;> exact ⟨_, h, hparams, hops, hindex, hmemory, hmuted⟩

/-- Settles O8: a TICK by its two ends, RECORD by its push; every other instruction touches nothing of the kind. -/
theorem everyInstructionAnswersANextState : Obligations.EveryInstructionAnswersANextState := by
  intro i s
  cases i
  case tick => exact execTick_completes s
  case recP1 | recP2 | recTri | recNoi | recDmc => exact ⟨_, rfl, recordChannel_leavesHostAlone _ s⟩
  case recFds => exact ⟨_, rfl, recordFds_leavesHostAlone s⟩
  all_goals exact ⟨_, rfl, rfl, rfl, rfl, rfl, fun _ => rfl⟩

end Sys2Proof.Machine

/-! ### Power-up (rules R501, R1000 and R1001) -/

namespace Sys2Proof.Machine

theorem waveEntry_reset (i : BitVec 6) : waveEntry State.reset.fds.wave i = 0 := by
  simp [State.reset, Fds.reset, FdsWave.reset, waveEntry]

theorem channels_reset_get (ch : Channel) : State.reset.channels.get ch = ChannelBuf.reset := by
  cases ch <;> rfl

/-- The capacity is at least 1, and both buffers have it. -/
theorem ringSane_reset : RingSane ChannelBuf.reset := by
  simp [RingSane, ChannelBuf.reset, Config.ringCapacity]

/-- Settles O52: each part of the invariant by the value its field has at power-up. -/
theorem invariantHoldsAtReset : Obligations.InvariantHoldsAtReset where
  commands := commandsLegal_reset
  samples i := by rw [waveEntry_reset]; exact BitVec.zero_and
  frequency := Nat.zero_lt_succ _
  dmc := ⟨fun hmore => absurd rfl hmore, by decide, by decide⟩
  lfsr := show (1 : BitVec 15) ≠ 0 by decide
  rings ch := by rw [channels_reset_get]; exact ringSane_reset
  memory := rfl
  running := rfl

theorem pulseOut_reset (first : Bool) : pulseOut first Pulse.reset = 0 := by
  rw [pulseOut_eq, if_pos (.inr (.inl rfl))]

theorem noiseOut_reset : noiseOut Noise.reset = 0 := by
  rw [noiseOut_eq, if_pos (.inr rfl)]

/-- At power-up no length counter is active, the DMC and filter levels are 0, and the triangle is at the first step of
its sequence. -/
theorem level_reset (ch : Channel) : level ch State.reset = if ch = .tri then 15 else 0 := by
  cases ch
  case p1 | p2 => simp [level, State.reset, Apu.reset, pulseOut_reset]
  case noi => simp [level, State.reset, Apu.reset, noiseOut_reset]
  case tri | dmc | fds => rfl

/-- Settles O57: every field by the definition of power-up, the buffers and tables entry by entry. -/
theorem powerUpState : Obligations.PowerUpState := by
  refine ⟨rfl, fun p hp => ?pulses, rfl, rfl, rfl, rfl, fun i => ⟨waveEntry_reset i, modEntry_reset i⟩,
    ⟨rfl, rfl, rfl, rfl, rfl, rfl, rfl, rfl⟩, ⟨rfl, rfl, rfl, rfl, rfl⟩, fun e he => ?envelopes,
    ⟨rfl, rfl, rfl, rfl, rfl, rfl⟩, fun ch => ?channels, rfl, rfl⟩
  case pulses => obtain rfl | rfl := List.mem_pair.mp hp <;> rfl
  case envelopes => obtain rfl | rfl := List.mem_pair.mp he <;> rfl
  case channels =>
    rw [channels_reset_get]
    exact ⟨rfl, rfl, fun v => List.eq_of_mem_replicate, fun e => List.eq_of_mem_replicate, level_reset ch⟩

end Sys2Proof.Machine

/-! ### The fade-out and the render loop (rules R801 to R806 and R815 to R820) -/

namespace Sys2Proof.Machine

/-- Once triggered, the timer counts down by one per frame, whatever the trigger says later. -/
theorem fadeAfter_eq (trigger : Nat → Bool) (length k : Nat) : fadeAfter trigger length k = some (length - k) := by
  induction k with
  | zero => rfl
  | succ k ih => rw [fadeAfter, ih, fadeStep, Nat.sub_sub]

/-- Settles O59: the timer by its count, and a divisor is of a length by at most that length. -/
theorem fadeOutReachesZeroAfterItsLength : Obligations.FadeOutReachesZeroAfterItsLength := fun length k trigger =>
  ⟨fadeAfter_eq trigger length k, fun hk => Nat.div_pos (Nat.sub_le _ _) (Nat.sub_pos_of_lt hk)⟩

/-! What pushing and muxing do to the slots in order. -/

/-- Muxing moves what was pushed, and the slots are those of all that was pushed. -/
theorem SlotsInOrder.of_same {r t : Renderer} (h : SlotsInOrder r) (hvideo : t.encoder.allVideo = r.encoder.allVideo)
    (haudio : t.encoder.allAudio = r.encoder.allAudio) (hframe : t.currentFrame = r.currentFrame) : SlotsInOrder t := by
  rw [SlotsInOrder, hvideo, haudio, hframe]; exact h

/-- An encoder that holds nothing, before the first Stepping frame. -/
theorem SlotsInOrder.of_nothing {r : Renderer} (hvideo : r.encoder.allVideo = []) (haudio : r.encoder.allAudio = [])
    (hframe : r.currentFrame = 0) : SlotsInOrder r := by
  rw [SlotsInOrder, hvideo, haudio, hframe]
  exact ⟨rfl, .nil, by simp⟩

/-- A Stepping frame pushes under the slot after the last, which is above every slot of the audio before it. -/
theorem SlotsInOrder.encodeFrame {r t : Renderer} {capture : Channels} {batch : List Sample} (h : SlotsInOrder r)
    (hframe : t.currentFrame = r.currentFrame + 1)
    (hencoder : t.encoder = encodeFrame (r.currentFrame + 1) capture batch r.encoder) : SlotsInOrder t := by
  obtain ⟨hvideo, haudio, hslots⟩ := h
  rw [SlotsInOrder, hframe, hencoder, encodeFrame_allVideo, encodeFrame_allAudio]
  refine ⟨?video, ?audio, fun v hv => ?slots⟩
  case video => rw [List.map_append, hvideo, List.range'_1_concat, Nat.add_comm 1]; rfl
  case audio =>
    rw [List.map_append, List.map_map]
    refine List.pairwise_append.mpr ⟨haudio, ?_, fun i hi j hj => ?_⟩
    · exact List.pairwise_map.mpr (List.pairwise_of_forall fun _ _ => le_rfl)
    · obtain ⟨v, hv, rfl⟩ := List.mem_map.mp hi
      obtain ⟨w, -, rfl⟩ := List.mem_map.mp hj
      obtain ⟨-, hle⟩ := hslots v hv
      exact Nat.le_succ_of_le hle
  case slots =>
    obtain hold | hnew := List.mem_append.mp hv
    · obtain ⟨hfirst, hlast⟩ := hslots v hold
      exact ⟨hfirst, Nat.le_succ_of_le hlast⟩
    · obtain ⟨w, -, rfl⟩ := List.mem_map.mp hnew
      exact ⟨Nat.le_add_left _ _, le_rfl⟩

/-! The transitions, by the state each is taken from. -/

theorem start_of_invalid {c : RenderConfig} {r : Renderer} {e : ConfigError} (h : r.phase = .idle)
    (hinvalid : validate c = some e) : r.start c = { r with phase := .error (.config e) } := by
  rw [Renderer.start, h, hinvalid]

theorem start_of_valid {c : RenderConfig} {r : Renderer} (h : r.phase = .idle) (hvalid : validate c = none) :
    r.start c =
      { phase := .priming, device := drain (trackStart c.nsf.usesFds c.nsf.init), currentFrame := 0,
        loops := LoopState.reset, fade := none, encoder := Encoder.start c.audioFramePred } := by
  rw [Renderer.start, h, hvalid]

theorem start_of_started (c : RenderConfig) {r : Renderer} (h : r.phase ≠ .idle) : r.start c = r := by
  rw [Renderer.start]
  split
  · contradiction
  all_goals rfl

theorem frame_of_priming (c : RenderConfig) (f : FrameRun) {r : Renderer} (h : r.phase = .priming) :
    r.frame c f = { r with phase := .stepping, device := primingFrame f r.device } := by
  rw [Renderer.frame, h]

theorem frame_of_stepping (c : RenderConfig) (f : FrameRun) {r : Renderer} (h : r.phase = .stepping) :
    r.frame c f = r.stepFrame c f := by
  rw [Renderer.frame, h]

theorem frame_of_resting (c : RenderConfig) (f : FrameRun) {r : Renderer} (hpriming : r.phase ≠ .priming)
    (hstepping : r.phase ≠ .stepping) : r.frame c f = r := by
  rw [Renderer.frame]
  split
  · contradiction
  · contradiction
  all_goals rfl

theorem drained_of_draining {r : Renderer} (h : r.phase = .draining) :
    r.drained = { r with phase := .done, encoder := r.encoder.finish } := by
  rw [Renderer.drained, h]

theorem drained_of_not_draining {r : Renderer} (h : r.phase ≠ .draining) : r.drained = r := by
  rw [Renderer.drained]
  split
  · contradiction
  all_goals rfl

theorem fail_of_error (x : Failure) {y : Failure} {r : Renderer} (h : r.phase = .error y) : r.fail x = r := by
  rw [Renderer.fail, h]

theorem fail_of_not_error (x : Failure) {r : Renderer} (h : ∀ y, r.phase ≠ .error y) :
    r.fail x = { r with phase := .error x } := by
  rw [Renderer.fail]
  split
  · rename_i y hy; exact absurd hy (h y)
  all_goals rfl

/-! The slots stay in order through each transition. -/

theorem SlotsInOrder.start {r : Renderer} (h : SlotsInOrder r) (c : RenderConfig) : SlotsInOrder (r.start c) := by
  by_cases hidle : r.phase = .idle
  · cases hvalid : validate c with
    | some e => rw [start_of_invalid hidle hvalid]; exact h.of_same rfl rfl rfl
    | none => rw [start_of_valid hidle hvalid]; exact .of_nothing rfl rfl rfl
  · rwa [start_of_started c hidle]

theorem SlotsInOrder.frame {r : Renderer} (h : SlotsInOrder r) (c : RenderConfig) (f : FrameRun) :
    SlotsInOrder (r.frame c f) := by
  by_cases hpriming : r.phase = .priming
  · rw [frame_of_priming c f hpriming]; exact h.of_same rfl rfl rfl
  · by_cases hstepping : r.phase = .stepping
    · rw [frame_of_stepping c f hstepping]; exact h.encodeFrame rfl rfl
    · rwa [frame_of_resting c f hpriming hstepping]

theorem SlotsInOrder.drained {r : Renderer} (h : SlotsInOrder r) : SlotsInOrder r.drained := by
  by_cases hdraining : r.phase = .draining
  · rw [drained_of_draining hdraining]
    exact h.of_same (Encoder.finish_allVideo _) (Encoder.finish_allAudio _) rfl
  · rwa [drained_of_not_draining hdraining]

theorem SlotsInOrder.fail {r : Renderer} (h : SlotsInOrder r) (x : Failure) : SlotsInOrder (r.fail x) := by
  by_cases herror : ∃ y, r.phase = .error y
  · obtain ⟨y, hy⟩ := herror
    rwa [fail_of_error x hy]
  · rw [fail_of_not_error x (not_exists.mp herror)]; exact h.of_same rfl rfl rfl

theorem SlotsInOrder.step {r : Renderer} (h : SlotsInOrder r) (c : RenderConfig) (e : RenderEvent) :
    SlotsInOrder (r.step c e) := by
  cases e with
  | start => exact h.start c
  | frame f => exact h.frame c f
  | finish => exact h.drained
  | failure x => exact h.fail x

/-! What a Stepping frame leaves, and that nothing leads out of Error. -/

/-- The position read draws a free value and leaves the device as it is (rule R812). -/
theorem afterPositionRead_eq (c : RenderConfig) (s : State) :
    afterPositionRead c s = { s with host := { s.host with draws := (afterPositionRead c s).host.draws } } := by
  rw [afterPositionRead]; split <;> rfl

theorem encodeFrame_next (n : Nat) (capture : Channels) (batch : List Sample) (e : Encoder) :
    (encodeFrame n capture batch e).next = .stop := Encoder.stepEncoding_next _

/-- The audio of a frame is pushed under its slot, each sample faded by the timer as the frame leaves it. -/
theorem stepFrame_allAudio (c : RenderConfig) (f : FrameRun) (r : Renderer) :
    (r.stepFrame c f).encoder.allAudio = r.encoder.allAudio ++ (runFrame f r.device).2.map
      (fun v => { slot := r.currentFrame + 1, value := faded c.fadeoutLength (r.stepFrame c f).fade v }) := by
  rw [Renderer.stepFrame, encodeFrame_allAudio, List.map_map]; rfl

theorem step_of_error (c : RenderConfig) (e : RenderEvent) {r : Renderer} {y : Failure} (h : r.phase = .error y) :
    r.step c e = r := by
  cases e with
  | start => exact start_of_started c (by simp [h])
  | frame f => exact frame_of_resting c f (by simp [h]) (by simp [h])
  | finish => exact drained_of_not_draining (by simp [h])
  | failure x => exact fail_of_error x h

/-- Settles O60: the slots by the transition taken, and each clause by the transition from its state. -/
theorem rendererPushesWholeFramesInPresentationOrder : Obligations.RendererPushesWholeFramesInPresentationOrder := by
  refine ⟨fun c e r h => h.step c e, .of_nothing rfl rfl rfl,
    fun c r hidle => ⟨fun e => start_of_invalid hidle, fun hvalid => ?start⟩,
    fun c f r => frame_of_priming c f, fun c f r hstepping => ?stepping, fun c r hdraining => ?draining,
    fun c x r => fail_of_not_error x, fun c e r y herror => ⟨step_of_error c e herror, ?outcome⟩⟩
  case start =>
    have hstart : r.step c .start = _ := start_of_valid hidle hvalid
    rw [hstart]
    exact ⟨rfl, rfl, rfl⟩
  case stepping =>
    have hframe : r.step c (.frame f) = r.stepFrame c f := frame_of_stepping c f hstepping
    rw [hframe]
    exact ⟨rfl, rfl, afterPositionRead_eq c _, rfl, rfl, encodeFrame_allVideo _ _ _ _, stepFrame_allAudio c f r,
      encodeFrame_next _ _ _ _⟩
  case draining =>
    have hfinish : r.step c .finish = _ := drained_of_draining hdraining
    obtain ⟨haudio, hvideo, htrailer⟩ := r.encoder.finish_buffered
    rw [hfinish]
    exact ⟨rfl, r.encoder.finish_ended, htrailer, haudio, hvideo, r.encoder.finish_allAudio,
      r.encoder.finish_allVideo, rfl⟩
  case outcome => rw [Renderer.outcome, herror]

end Sys2Proof.Machine
